-- ==== Sys2Proof/Word.lean ====
section
/-! DEFINITION. The plain data the codec core handles: bit sequences (R11), symbol codes (R6, SYMW = 7) and
port bytes (R72). The functions on them are in Machine/Bits.lean. -/

namespace Sys2Proof

/-- A bit sequence: index 0 is the first bit produced by an encoder and the first read by a decoder (R11). -/
abbrev Bits := List Bool

/-- A symbol as its 7-bit code point (R6, R16). -/
abbrev Sym := BitVec 7

/-- One byte of the host port (R72) or one command word (R120). -/
abbrev Byte := BitVec 8

end Sys2Proof
end

