-- ==== Sys2Proof/Config.lean ====
section
/-! DEFINITION. What an implementation fixes (00_scope.md R6 to R8, the OPEN parameters of 92_eei_decisions.md) and
the FREE VALUES: opaque constants for what the spec leaves unspecified (93_implementation_defined.md V1 to V6). -/

namespace Sys2Proof

namespace Config

/-- NSYM: the number of symbols of the alphabet (R6). -/
abbrev nsym : Nat := 95

/-- SYMW: the width in bits of a symbol on the wire (R6). -/
abbrev symw : Nat := 7

/-- CW_MAX = NSYM - 1: the largest codeword length the table can hold (R8). -/
abbrev cwMax : Nat := 94

/-- FREQW: the width in bits of one frequency count (R8). -/
abbrev freqw : Nat := 32

end Config

/-- The parameters the spec leaves to the implementation (R7, R8; D6, D12, D13). They stand in the machine's state as
plain data that no step changes, so that every claim is made for every choice of them. -/
structure Params where
  /-- IN_MAX: capacity of IBUF in bits. -/
  inMax : Nat
  /-- OB_MAX: capacity of OBUF in bits. -/
  obMax : Nat
  /-- OUT_MAX: capacity of OUT in symbols. -/
  outMax : Nat
  /-- TOK_MAX: capacity of TOK in tokens. -/
  tokMax : Nat
  /-- EO_MAX_GROUP: the longest Elias-omega group the decoder accepts, in bits (R7); also VALW (R8). -/
  eoMaxGroup : Nat
  /-- SYM_MIN: the lowest symbol code point (R8). -/
  symMin : Nat
  deriving DecidableEq, Repr

namespace Config

/-- The parameters of the machine after `State.reset`. EO_MAX_GROUP = 100 and SYM_MIN = 32 are the spec's defaults
(R7, R8); the four capacities are OPEN there and 2^20 here (DESIGN CHOICE, log 1). -/
def defaultParams : Params :=
  { inMax := 1048576, obMax := 1048576, outMax := 1048576, tokMax := 1048576, eoMaxGroup := 100, symMin := 32 }

/-- FREE VALUE: what register number `r` holds after the fault entry made in epoch `e` (R281, V4). -/
opaque freeReg (e r : Nat) : Nat

/-- FREE VALUE: the bit in cell `i` of IBUF (`m = 0`) or OBUF (`m = 1`) that nothing has written in epoch `e` (V1, V3). -/
opaque freeBit (m e i : Nat) : Bool

/-- FREE VALUE: the symbol in cell `i` of OUT that nothing has written in epoch `e` (V1). -/
opaque freeSym (e i : Nat) : Sym

/-- FREE VALUE: the contents of cell `i` of TOK that nothing has written in epoch `e` (V1). -/
opaque freeTok (e i : Nat) : Nat

/-- FREE VALUE: FREQ cell `k` after the fault entry made in epoch `e` (R281, V4). -/
opaque freeFreq (e k : Nat) : BitVec 32

/-- FREE VALUE: CT entry `k` after the fault entry made in epoch `e` (R281, V4): invalid, or valid with a LEN and BITS. -/
opaque freeCt (e k : Nat) : Option (BitVec 7 × BitVec 94)

/-- FREE VALUE: LEN and BITS of entry `k` while its VALID is 0 (V2). They are free anew in every epoch `e`, after every
operation that makes the entries invalid (counted in `g`) and after every host write to the entry (counted in `w`), and
stable in between (R47). -/
opaque freeCtFields (e g w k : Nat) : BitVec 7 × BitVec 94

/-- FREE VALUE: what the host's read of CMD with draw number `d` returns, since no rule gives CMD a value to read
(R31, V6). -/
opaque freePort (d : Nat) : Nat

end Config

end Sys2Proof
end

