-- ==== Sys2Proof/Syntax.lean ====
section
/-! DEFINITION. The instructions of spec/opcode_table.json (`Instr`), the error kinds (R270), the tokens of TOK (R44),
and the lines of a host script (R137), which are the machine's inputs. -/

namespace Sys2Proof

/-- One constructor per row of the opcode table. The ten commands have no operand in the command word (R121): their
operands are the registers and memories of R39. The two tokens are told apart by the flag bit (R130); their operands
(codeword; offset and length) follow the flag in IBUF and are read there by the meaning (R220, R222). -/
inductive Instr where
  /-- EO_ENC, OP = 1 (R143). -/
  | eoEnc
  /-- EO_DEC, OP = 2 (R148). -/
  | eoDec
  /-- HUF_BUILD, OP = 3 (R173). -/
  | hufBuild
  /-- HDR_SER, OP = 4 (R191). -/
  | hdrSer
  /-- HDR_DES, OP = 5 (R195). -/
  | hdrDes
  /-- TOK_SER, OP = 6 (R212). -/
  | tokSer
  /-- TOK_DES, OP = 7 (R218). -/
  | tokDes
  /-- ENCODE, OP = 8 (R253). -/
  | encode
  /-- DECODE, OP = 9 (R255). -/
  | decode
  /-- RESET, OP = 15 (R257). -/
  | reset
  /-- LIT, flag bit 1 (R220). -/
  | litTok
  /-- MATCH, flag bit 0 (R222). -/
  | matchTok
  deriving DecidableEq, Repr

/-- The error kinds (R270). Code 7 is reserved and never produced, so it has no constructor. -/
inductive ErrKind where
  | none
  | malformedHeader
  | malformedToken
  | invalidInput
  | boundsExceeded
  | capacityExceeded
  | illegalCommand
  deriving DecidableEq, Repr

/-- A token as the serializer reads it from TOK (R44) and as the body carries it (R105, R106). -/
inductive Token where
  /-- `Lit(s)`. -/
  | lit (s : Sym)
  /-- `Match(o, l)`. -/
  | mtch (o l : Nat)
  deriving DecidableEq, Repr

/-- The ten registers of the register file, in the order of R31. -/
inductive Reg where
  | cmd
  | status
  | err
  | pos
  | inlen
  | nbits
  | val
  | olen
  | outlen
  | ntok
  deriving DecidableEq, Repr

/-- The two bit-addressed memories (R40, R72). -/
inductive BitMem where
  | ibuf
  | obuf
  deriving DecidableEq, Repr

/-- One action of the host (R137): one line of a host script, or the hardware reset input (R300). Cells of FREQ and CT
are named by their index k, the cell of symbol SYM_MIN + k (R45, R46). -/
inductive HostAct where
  /-- `WR REG, v`; `CMD OP` is `WR CMD, w`. -/
  | wrReg (r : Reg) (v : Nat)
  /-- `RD REG`. -/
  | rdReg (r : Reg)
  /-- Write one bit cell of IBUF or OBUF. -/
  | wrBit (m : BitMem) (i : Nat) (b : Bool)
  /-- Read one bit cell of IBUF or OBUF. -/
  | rdBit (m : BitMem) (i : Nat)
  /-- Write the bytes numbered j, j+1, ... of IBUF or OBUF (R72; one byte, or a wider port word). -/
  | wrBytes (m : BitMem) (j : Nat) (bs : List Byte)
  /-- Read the n bytes numbered j, j+1, ... of IBUF or OBUF (R72). -/
  | rdBytes (m : BitMem) (j n : Nat)
  /-- A write to OUT, which every state ignores (R38). -/
  | wrOut (i : Nat) (v : Sym)
  /-- Read one cell of OUT. -/
  | rdOut (i : Nat)
  /-- Write one TOK cell of 1 + 2*VALW bits (R44). -/
  | wrTok (i : Nat) (c : Nat)
  /-- Read one TOK cell. -/
  | rdTok (i : Nat)
  /-- Write FREQ cell k. -/
  | wrFreq (k : Nat) (v : BitVec 32)
  /-- Read FREQ cell k. -/
  | rdFreq (k : Nat)
  /-- Write CT entry k: the fields VALID, LEN and BITS (R46). -/
  | wrCt (k : Nat) (valid : Bool) (len : BitVec 7) (bits : BitVec 94)
  /-- Read CT entry k. -/
  | rdCt (k : Nat)
  /-- `LOAD IBUF, bits`: write the bit string from cell 0 and set nothing else. -/
  | load (b : Bits)
  /-- `LOAD IBUF, OBUF[0..n)`. -/
  | loadObuf (n : Nat)
  /-- The hardware reset input (R300). -/
  | hwReset
  deriving DecidableEq, Repr

end Sys2Proof
end

