-- ==== Sys2Proof/Machine/Bits.lean ====
section
/-! DEFINITION. Bit sequences and numbers (R9 to R11), the widths that follow from the parameters (R8), and the bit
order of the host port's bytes (R72). -/

namespace Sys2Proof

/-- `bitlen(n)` for n >= 1: the number of bits of n in binary without leading zeros (R9). -/
def bitlen (n : Nat) : Nat := Nat.log2 n + 1

/-- `bin_N(v)`: the N-bit sequence of v, most significant bit first (R11). -/
def binN (w v : Nat) : Bits := (List.range w).map fun j => v.testBit (w - 1 - j)

/-- `bin(n)` for n >= 1: binary without leading zeros (R11). -/
def bin (n : Nat) : Bits := binN (bitlen n) n

/-- `val(b)`: the number whose bits, most significant first, are b (R11). -/
def val (b : Bits) : Nat := b.foldl (fun a x => 2 * a + x.toNat) 0

/-- VALW = EO_MAX_GROUP: the width of the VAL register and of a match's fields (R8). -/
def Params.valw (p : Params) : Nat := p.eoMaxGroup

/-- CURW: the least w with 2^w > max(IN_MAX, OB_MAX, OUT_MAX, TOK_MAX) (R8). -/
def Params.curw (p : Params) : Nat := bitlen (max (max p.inMax p.obMax) (max p.outMax p.tokMax))

/-- SYM_MAX = SYM_MIN + NSYM - 1 (R8). -/
def Params.symMax (p : Params) : Nat := p.symMin + Config.nsym - 1

/-- The width of a TOK cell, `1 + 2*VALW` (R44). -/
def Params.tokw (p : Params) : Nat := 1 + 2 * p.valw

/-- The index of a register on the host port (R31). -/
def Reg.num : Reg → Nat
  | .cmd => 0
  | .status => 1
  | .err => 2
  | .pos => 3
  | .inlen => 4
  | .nbits => 5
  | .val => 6
  | .olen => 7
  | .outlen => 8
  | .ntok => 9

/-- The width of a register in bits (R31). -/
def Reg.width (p : Params) : Reg → Nat
  | .cmd => 8
  | .status => 2
  | .err => 3
  | .val => p.valw
  | .pos => p.curw
  | .inlen => p.curw
  | .nbits => p.curw
  | .olen => p.curw
  | .outlen => p.curw
  | .ntok => p.curw

/-- Sequence bit 8j+k is bit 7-k of byte j (R72): the bits of a byte in stream order. -/
def bitsOfByte (b : Byte) : Bits := (List.range 8).map fun k => b.getLsbD (7 - k)

/-- The byte that holds eight bits in stream order (R72). -/
def byteOfBits (b : Bits) : Byte := BitVec.ofNat 8 (val b)

/-- The bits of a run of bytes, the byte with the lowest number first (R72). -/
def bitsOfBytes (bs : List Byte) : Bits := bs.flatMap bitsOfByte

end Sys2Proof
end

