-- ==== Sys2Proof/WellFormed.lean ====
section
/-! DEFINITION. What makes the machine's inputs well formed: the constraints on the parameters (R7, R8), a token that
has an encoding (R44, R101, R105, R106), and a host write whose value fits the register or cell it names (R31, R44).
The instructions themselves carry no operand (R121), so every term of `Instr` is well formed. -/

namespace Sys2Proof

/-- The capacities are at least 1, EO_MAX_GROUP at least 7, and SYM_MAX at most 127 (R7, R8; the table of OPEN
parameters in 92_eei_decisions.md). -/
def Params.wf (p : Params) : Bool :=
  decide (1 ≤ p.inMax) && decide (1 ≤ p.obMax) && decide (1 ≤ p.outMax) && decide (1 ≤ p.tokMax)
    && decide (7 ≤ p.eoMaxGroup) && decide (p.symMax ≤ 127)

/-- The symbol lies in SYM_MIN..SYM_MAX (R111). -/
def Params.symOk (p : Params) (s : Nat) : Bool := decide (p.symMin ≤ s) && decide (s ≤ p.symMax)

/-- A token the wire format can carry: a literal of the alphabet (R131), or a match whose offset and length are at least
1 (R106; 0 has no code, R145) and fit VALW bits (R44). -/
def Token.wf (p : Params) : Token → Bool
  | .lit s => p.symOk s.toNat
  | .mtch o l => decide (1 ≤ o) && decide (1 ≤ l) && decide (o < 2 ^ p.valw) && decide (l < 2 ^ p.valw)

/-- The value a host action writes fits the register (R31) or the TOK cell (R44) it names; the other actions carry
their width in their type. -/
def HostAct.fits (p : Params) : HostAct → Bool
  | .wrReg r v => decide (v < 2 ^ r.width p)
  | .wrTok _ c => decide (c < 2 ^ p.tokw)
  | .rdReg _ => true
  | .wrBit _ _ _ => true
  | .rdBit _ _ => true
  | .wrBytes _ _ _ => true
  | .rdBytes _ _ _ => true
  | .wrOut _ _ => true
  | .rdOut _ => true
  | .rdTok _ => true
  | .wrFreq _ _ => true
  | .rdFreq _ => true
  | .wrCt _ _ _ _ => true
  | .rdCt _ => true
  | .load _ => true
  | .loadObuf _ => true
  | .hwReset => true

end Sys2Proof
end

