-- ==== Sys2Proof/Decode.lean ====
section
/-! DEFINITION. Decoding and encoding: the command word (R120, R134), the token flag (R130), and the wire formats of
the tokens' operands (R101 to R106): the Elias-omega code (R140, R146) and the codeword match (R221). A bit source is
given as a function from cell index to bit and a length; bits at or above the length are never read. -/

namespace Sys2Proof

/-! ## The command word and the token flag -/

/-- An instruction as it is stored: a command word written to CMD (R120), or the flag bit of a token in IBUF (R130). -/
inductive InstrWord where
  | command (w : Byte)
  | token (flag : Bool)
  deriving DecidableEq, Repr

/-- Why a command word names no operation (R134). -/
inductive DecodeError where
  /-- Bits [7:4] are not zero. -/
  | reservedBits
  /-- OP is 0 or one of 10 to 14. -/
  | reservedOp
  deriving DecidableEq, Repr

/-- The field OP of a command word, bits [3:0] (R32). -/
def opField (w : Byte) : Nat := w.toNat % 16

/-- The reserved field of a command word, bits [7:4] (R32). -/
def rsvdField (w : Byte) : Nat := w.toNat / 16

/-- The operation an OP code names (R120). -/
def decodeOp : Nat → Option Instr
  | 1 => some .eoEnc
  | 2 => some .eoDec
  | 3 => some .hufBuild
  | 4 => some .hdrSer
  | 5 => some .hdrDes
  | 6 => some .tokSer
  | 7 => some .tokDes
  | 8 => some .encode
  | 9 => some .decode
  | 15 => some .reset
  | _ => none

/-- The instruction a command word names; reserved words are refused by name (R120, R134). -/
def decodeCmd (w : Byte) : Except DecodeError Instr :=
  if rsvdField w ≠ 0 then .error .reservedBits
  else match decodeOp (opField w) with
    | some i => .ok i
    | none => .error .reservedOp

/-- The token a flag bit starts: 1 is a literal, 0 a match; there is no reserved kind (R130). -/
def decodeFlag (f : Bool) : Instr := if f then .litTok else .matchTok

/-- Decoding, total on every word. -/
def decodeWord : InstrWord → Except DecodeError Instr
  | .command w => decodeCmd w
  | .token f => .ok (decodeFlag f)

/-- The word of an instruction: the command codes of R120 and the flag values of R105 and R106. -/
def encodeInstr : Instr → InstrWord
  | .eoEnc => .command 0x01
  | .eoDec => .command 0x02
  | .hufBuild => .command 0x03
  | .hdrSer => .command 0x04
  | .hdrDes => .command 0x05
  | .tokSer => .command 0x06
  | .tokDes => .command 0x07
  | .encode => .command 0x08
  | .decode => .command 0x09
  | .reset => .command 0x0F
  | .litTok => .token true
  | .matchTok => .token false

/-- The row of spec/opcode_table.json that a table word stands for. The table numbers a command's bits from its least
significant bit and a token's from its flag, the first bit in stream order. A word of 8 bits is a command word; the
word 0, which is no command, is the table's word of MATCH; a word of any other size is a token, its bit 0 the flag.
LIT's table word padded to a byte is the command word 0x01 and reads as EO_ENC (log 2). -/
def decodeTableWord (nbits w : Nat) : Option Instr :=
  if nbits = 8 then
    if w = 0 then some (decodeFlag false)
    else if w < 256 then
      match decodeCmd (BitVec.ofNat 8 w) with
      | .ok i => some i
      | .error _ => none
    else none
  else some (decodeFlag (w.testBit 0))

/-! ## Reading a bit source -/

/-- `Avail(c, n)`: the n bits from index c lie inside the input sequence (R76). -/
def avail (len c n : Nat) : Bool := decide (c + n ≤ len)

/-- `InSeq(c, n)`: the bit sequence at indices c to c+n-1 (R78). -/
def inSeq (bit : Nat → Bool) (c n : Nat) : Bits := (List.range n).map fun j => bit (c + j)

/-- `InBits(c, n)`: the n-bit number whose most significant bit is at c (R77). -/
def inBits (bit : Nat → Bool) (c n : Nat) : Nat := val (inSeq bit c n)

/-! ## Format EO, one Elias-omega code (R101) -/

/-- The loop of `EOCode` (R140): `g` is the most recently prepended group. Each new group is shorter than the one
before it until a group of length 1 is reached, so the length of the first group is fuel enough. -/
def eoCodeLoop : Nat → Bits → Bits → Bits
  | 0, _, code => code
  | fuel + 1, g, code =>
    let l := g.length - 1
    if l = 0 then code
    else
      let g' := false :: (bin l).tail
      eoCodeLoop fuel g' (g' ++ code)

/-- `EOCode(n)` for n >= 1 (R140). -/
def eoCode (n : Nat) : Bits := eoCodeLoop (bin n).length (bin n) (bin n)

/-- `EOLen(n)`: the length of the code of n (R141). -/
def eoLen (n : Nat) : Nat := (eoCode n).length

/-- The outcome of `EODecode` (R146). -/
inductive EORes where
  /-- The integer and the number of bits consumed. -/
  | value (n k : Nat)
  | truncated
  | boundsExceeded
  deriving DecidableEq, Repr

/-- The loop of `EODecode` (R146), from cursor `c` with group length `r`, for a code that starts at `p`. The group
length grows with every length group and is tested against EO_MAX_GROUP before the next group is looked for (R147), so
EO_MAX_GROUP + 1 rounds are fuel enough (R150). -/
def eoDecodeLoop (maxGroup : Nat) (bit : Nat → Bool) (len p : Nat) : Nat → Nat → Nat → EORes
  | 0, _, _ => .boundsExceeded
  | fuel + 1, r, c =>
    if avail len c r = false then .truncated
    else
      let g := inBits bit c r
      if bit c then .value g (c + r - p)
      else
        let m := g + 2 ^ (r - 1)
        if m + 1 > maxGroup then .boundsExceeded
        else eoDecodeLoop maxGroup bit len p fuel (m + 1) (c + r)

/-- `EODecode(p)` (R146). -/
def eoDecode (maxGroup : Nat) (bit : Nat → Bool) (len p : Nat) : EORes :=
  eoDecodeLoop maxGroup bit len p (maxGroup + 1) 1 p

/-! ## Codewords (R112, R221) -/

/-- `CodewordMatches(cur)` over a table of (entry index, codeword): the entries whose codeword is available at the
cursor and equals the bits there (R221). -/
def codewordMatches (table : List (Nat × Bits)) (bit : Nat → Bool) (len cur : Nat) : List (Nat × Bits) :=
  table.filter fun e => avail len cur e.2.length && (inSeq bit cur e.2.length == e.2)

/-- The codeword of entry k in a table. -/
def tableLookup : List (Nat × Bits) → Nat → Option Bits
  | [], _ => none
  | (j, cw) :: rest, k => if j = k then some cw else tableLookup rest k

/-! ## Token cells (R44) and token bits (R105, R106) -/

/-- The token a TOK cell of `1 + 2*valw` bits holds (R44): bit 2*VALW is KIND; of a literal only bits [6:0] count. -/
def Token.ofCell (valw c : Nat) : Token :=
  if c.testBit (2 * valw) then .lit (BitVec.ofNat 7 c)
  else .mtch (c / 2 ^ valw % 2 ^ valw) (c % 2 ^ valw)

/-- The TOK cell of a token, the ignored bits of a literal zero (R44). -/
def Token.toCell (valw : Nat) : Token → Nat
  | .lit s => 2 ^ (2 * valw) + s.toNat
  | .mtch o l => o * 2 ^ valw + l

/-- The bits of a token in the body, for a table of (entry index, codeword) (R105, R106, R211); none for a literal that
has no codeword. -/
def encodeToken (symMin : Nat) (table : List (Nat × Bits)) : Token → Option Bits
  | .lit s => if symMin ≤ s.toNat then (tableLookup table (s.toNat - symMin)).map fun cw => true :: cw else none
  | .mtch o l => some (false :: (eoCode o ++ eoCode l))

/-- The operand of a literal, read at the bit after its flag: the symbol of the one entry whose codeword matches there and
the codeword's length; none or several matching entries raise MalformedToken (R220, R221). -/
def readLit (symMin : Nat) (table : List (Nat × Bits)) (bit : Nat → Bool) (len cur : Nat) : Except ErrKind (Sym × Nat) :=
  match codewordMatches table bit len cur with
  | [] => .error .malformedToken
  | [(k, cw)] => .ok (BitVec.ofNat 7 (symMin + k), cw.length)
  | _ :: _ :: _ => .error .malformedToken

/-- One integer of a match, read at `cur` (R222): its value and its length in bits. -/
def readMatchInt (maxGroup : Nat) (bit : Nat → Bool) (len cur : Nat) : Except ErrKind (Nat × Nat) :=
  match eoDecode maxGroup bit len cur with
  | .value n k => .ok (n, k)
  | .truncated => .error .malformedToken
  | .boundsExceeded => .error .boundsExceeded

/-- The operands of a match, read at the bit after its flag: offset, length, and the bits the two codes take (R222). -/
def readMatch (maxGroup : Nat) (bit : Nat → Bool) (len cur : Nat) : Except ErrKind (Nat × Nat × Nat) :=
  match readMatchInt maxGroup bit len cur with
  | .error e => .error e
  | .ok (o, k) =>
    match readMatchInt maxGroup bit len (cur + k) with
    | .error e => .error e
    | .ok (l, k') => .ok (o, l, k + k')

/-- Read one whole token at `p`: its flag (R130) and its operands. It answers the token and the number of bits it takes;
what the token does is Machine/TokenStream.lean, which reads flag and operands with the same functions. -/
def decodeToken (maxGroup symMin : Nat) (table : List (Nat × Bits)) (bit : Nat → Bool) (len p : Nat) :
    Except ErrKind (Token × Nat) :=
  if avail len p 1 = false then .error .malformedToken
  else if bit p then
    match readLit symMin table bit len (p + 1) with
    | .error e => .error e
    | .ok (s, k) => .ok (.lit s, 1 + k)
  else
    match readMatch maxGroup bit len (p + 1) with
    | .error e => .error e
    | .ok (o, l, k) => .ok (.mtch o l, 1 + k)

end Sys2Proof
end

