-- ==== Sys2Proof/Machine/State.lean ====
section
/-! DEFINITION. The state of one block (R30): the registers of R31, the six memories of R40, the working state of the
token loop (R36, R52), the parameters, and the model's own fields (the host's pending actions, the last value the host
port answered, the counters the free values are drawn with). Plain data. -/

namespace Sys2Proof.Machine

/-- STATUS.STATE (R33). The value 2 is reserved and never produced, so it has no constructor. -/
inductive Status where
  | ready
  | busy
  | fault
  deriving DecidableEq, Repr

/-- A memory of R40: the cells that hold a known value, as (index, contents) in one canonical form (`Mem.wf`): indices
strictly rising. What an unlisted cell reads as is said once per memory, in Machine/Operands.lean. -/
abbrev Mem (α : Type) := List (Nat × α)

/-- The fields LEN and BITS of a valid CT entry (R46). An entry that is not valid is not listed in `State.ct`. -/
structure CtCell where
  /-- LEN: the codeword's length; values above CW_MAX can only come from a host write. -/
  len : BitVec 7
  /-- BITS: the codeword, left-aligned: codeword bit j is bit CW_MAX-1-j. -/
  bits : BitVec 94
  deriving DecidableEq, Repr

/-- What the host port answered to a read (the model's own type; R38, R72). -/
inductive PortVal where
  | reg (v : Nat)
  | bit (b : Bool)
  | bytes (bs : List Byte)
  | sym (s : Sym)
  | tok (c : Nat)
  | freq (v : BitVec 32)
  | ct (valid : Bool) (len : BitVec 7) (bits : BitVec 94)
  deriving DecidableEq, Repr

/-- The machine's state. Registers hold natural numbers (R9); `State.Fits` in Safety.lean says that each fits its
width (R31), and every step keeps it. -/
structure State where
  /-- The OPEN parameters (R7, R8); no step changes them. -/
  par : Params
  /-- STATUS.STATE (R33). -/
  status : Status
  /-- ERR (R34). -/
  err : ErrKind
  /-- POS (R31). -/
  pos : Nat
  /-- INLEN (R31). -/
  inlen : Nat
  /-- NBITS (R31). -/
  nbits : Nat
  /-- VAL (R31). -/
  val : Nat
  /-- OLEN (R31, R37). -/
  olen : Nat
  /-- OUTLEN (R31). -/
  outlen : Nat
  /-- NTOK (R31). -/
  ntok : Nat
  /-- IBUF (R41). -/
  ibuf : Mem Bool
  /-- OBUF (R42). -/
  obuf : Mem Bool
  /-- OUT (R43). -/
  out : Mem Sym
  /-- TOK, the physical cells (R44). -/
  tok : Mem Nat
  /-- FREQ, by cell number (R45); an unlisted cell is 0. -/
  freq : Mem (BitVec 32)
  /-- CT, by entry number (R46); an unlisted entry has VALID = 0. -/
  ct : Mem CtCell
  /-- The bit cursor `cur` (R36); 0 while no operation runs. -/
  cur : Nat
  /-- The number of tokens still to process (R52); 0 while no operation runs. -/
  tokLeft : Nat
  /-- The model's own: the host's actions still to come, in order (R137). -/
  script : List HostAct
  /-- The model's own: what the host port answered to the last read, if there was one. -/
  rdata : Option PortVal
  /-- The model's own: how often the unspecified contents were drawn anew (reset, fault entry). -/
  epoch : Nat
  /-- The model's own: the number of the next draw from `Config.freePort`; a read of CMD moves it on. -/
  draws : Nat
  /-- The model's own: how often an operation has made every CT entry invalid in this epoch. -/
  ctGen : Nat
  /-- The model's own: by entry number, how often the host has written the CT entry in this epoch; an unlisted entry,
  never. -/
  ctWrites : Mem Nat
  deriving DecidableEq, Repr

/-- Why the machine stops with a fault. The block's own errors are not here: they are fault ENTRY (R281), a next state. -/
inductive Fault where
  /-- The host named a cell its memory does not have (R40, R45). Raised by the host port only. Safe: the model stops. -/
  | noSuchCell
  deriving DecidableEq, Repr

/-- Why the machine gives an input no meaning. -/
inductive Refusal where
  /-- An arm of `exec` that has no meaning yet; none is left. Safe: the model stops. -/
  | notModelled (mnemonic : String)
  /-- A host write of a value wider than the register or cell (R31, R44), which a port of that width cannot make.
  Raised by the host port only. Safe: the model stops. -/
  | hostValueTooWide
  /-- A host access other than a read of STATUS while STATE is BUSY, a command among them: R38, R251 and R310 forbid it
  and leave its effect unspecified (V5: refuse). Raised by a command's meaning and by the host port; `step` offers the
  host no access in BUSY, so no step answers it. Safe: the model stops. -/
  | hostAccessWhileBusy
  /-- A host read in FAULT of anything but STATUS and ERR: R38 and R281 let the host read only those two, and V4, which
  names both rules, has every other read refused. Raised by the host port only. Safe: the model stops. -/
  | hostReadInFault
  deriving DecidableEq, Repr

namespace State

/-- The state after reset (R54, R300): READY, ERR None, every register 0, every FREQ cell 0, every CT entry invalid; no
cell of IBUF, OBUF, OUT or TOK is listed, so each holds an unspecified value. Nothing runs until the host acts (R301). -/
def reset : State :=
  { par := Config.defaultParams, status := .ready, err := .none, pos := 0, inlen := 0, nbits := 0, val := 0, olen := 0,
    outlen := 0, ntok := 0, ibuf := [], obuf := [], out := [], tok := [], freq := [], ct := [], cur := 0, tokLeft := 0,
    script := [], rdata := none, epoch := 0, draws := 0, ctGen := 0, ctWrites := [] }

/-! The updates the operations are written with. -/

/-- Write STATUS and ERR. -/
def setStatus (s : State) (st : Status) (e : ErrKind) : State := { s with status := st, err := e }

/-- Write POS. -/
def setPos (s : State) (v : Nat) : State := { s with pos := v }

/-- Write INLEN. -/
def setInlen (s : State) (v : Nat) : State := { s with inlen := v }

/-- Write NBITS. -/
def setNbits (s : State) (v : Nat) : State := { s with nbits := v }

/-- Write VAL. -/
def setVal (s : State) (v : Nat) : State := { s with val := v }

/-- Write OLEN. -/
def setOlen (s : State) (v : Nat) : State := { s with olen := v }

/-- Write OUTLEN. -/
def setOutlen (s : State) (v : Nat) : State := { s with outlen := v }

/-- Write NTOK. -/
def setNtok (s : State) (v : Nat) : State := { s with ntok := v }

/-- Replace the contents of IBUF. -/
def setIbuf (s : State) (m : Mem Bool) : State := { s with ibuf := m }

/-- Replace the contents of OBUF. -/
def setObuf (s : State) (m : Mem Bool) : State := { s with obuf := m }

/-- Replace the contents of OUT. -/
def setOut (s : State) (m : Mem Sym) : State := { s with out := m }

/-- Replace the contents of TOK. -/
def setTok (s : State) (m : Mem Nat) : State := { s with tok := m }

/-- Replace the contents of FREQ. -/
def setFreq (s : State) (m : Mem (BitVec 32)) : State := { s with freq := m }

/-- Replace the contents of CT. -/
def setCt (s : State) (m : Mem CtCell) : State := { s with ct := m }

/-- Move the cursor. -/
def setCur (s : State) (c : Nat) : State := { s with cur := c }

/-- Set the number of tokens still to process. -/
def setTokLeft (s : State) (n : Nat) : State := { s with tokLeft := n }

/-- Replace the host's pending actions. -/
def setScript (s : State) (l : List HostAct) : State := { s with script := l }

/-- Answer a host read. -/
def setRdata (s : State) (v : PortVal) : State := { s with rdata := some v }

/-- Count a host read. -/
def setDraws (s : State) (n : Nat) : State := { s with draws := n }

/-- Count an operation that made every CT entry invalid. -/
def setCtGen (s : State) (n : Nat) : State := { s with ctGen := n }

/-- Count a host write to CT. -/
def setCtWrites (s : State) (m : Mem Nat) : State := { s with ctWrites := m }

end State

end Sys2Proof.Machine
end

