-- ==== Sys2Proof/Machine/Mem.lean ====
section
/-! DEFINITION. A memory (R40) as a list of (index, contents) with strictly rising indices: reading, writing and
removing a cell, writing a run of cells, and the canonical form. -/

namespace Sys2Proof.Machine

/-- What the list holds for cell `i`; nothing for an unlisted cell. -/
def Mem.read {α : Type} : Mem α → Nat → Option α
  | [], _ => none
  | (j, v) :: rest, i => if j = i then some v else Mem.read rest i

/-- Write one cell, keeping the indices strictly rising. -/
def Mem.write {α : Type} : Mem α → Nat → α → Mem α
  | [], i, v => [(i, v)]
  | (j, w) :: rest, i, v =>
    if i < j then (i, v) :: (j, w) :: rest
    else if i = j then (i, v) :: rest
    else (j, w) :: Mem.write rest i v

/-- Remove a cell from the list. -/
def Mem.erase {α : Type} : Mem α → Nat → Mem α
  | [], _ => []
  | (j, w) :: rest, i => if j = i then Mem.erase rest i else (j, w) :: Mem.erase rest i

/-- Write the cells i, i+1, ... with the elements of a list, in ascending order (R79). -/
def Mem.writeSeq {α : Type} (m : Mem α) : Nat → List α → Mem α
  | _, [] => m
  | i, v :: vs => Mem.writeSeq (Mem.write m i v) (i + 1) vs

/-- Write cell `k` of a memory whose unlisted cells read as 0 (FREQ, R45): a 0 is not listed. -/
def Mem.writeFreq (m : Mem (BitVec 32)) (k : Nat) (v : BitVec 32) : Mem (BitVec 32) :=
  if v = 0 then Mem.erase m k else Mem.write m k v

/-- Write CT entry `k` (R46): an entry with VALID = 0 is not listed (its LEN and BITS are any value, V2). -/
def Mem.writeCt (m : Mem CtCell) (k : Nat) : Option CtCell → Mem CtCell
  | none => Mem.erase m k
  | some e => Mem.write m k e

/-- The canonical form: indices strictly rising and below the memory's size. -/
def Mem.wf {α : Type} (m : Mem α) (size : Nat) : Bool :=
  decide (m.Pairwise fun a b => a.1 < b.1) && m.all fun c => decide (c.1 < size)

end Sys2Proof.Machine
end

