-- ==== Sys2Proof/Machine/Operands.lean ====
section
/-! DEFINITION. The operands of the operations, read from the registers and memories (R39, R121): what every cell of
the six memories reads as, the codewords of CT, and the tokens of TOK. -/

namespace Sys2Proof.Machine

/-- Bit `i` of IBUF (R41). A cell nothing has written holds an unspecified bit (V1, V3): a free value. -/
def State.inBit (s : State) (i : Nat) : Bool := (Mem.read s.ibuf i).getD (Config.freeBit 0 s.epoch i)

/-- Bit `i` of OBUF (R42). The block never reads it; the host may. -/
def State.obufBit (s : State) (i : Nat) : Bool := (Mem.read s.obuf i).getD (Config.freeBit 1 s.epoch i)

/-- Cell `i` of OUT (R43). -/
def State.outCell (s : State) (i : Nat) : Sym := (Mem.read s.out i).getD (Config.freeSym s.epoch i)

/-- Cell `i` of TOK, `1 + 2*VALW` bits (R44). -/
def State.tokCell (s : State) (i : Nat) : Nat :=
  (Mem.read s.tok i).getD (Config.freeTok s.epoch i % 2 ^ s.par.tokw)

/-- Token `i` of TOK (R44). -/
def State.tokAt (s : State) (i : Nat) : Token := Token.ofCell s.par.valw (s.tokCell i)

/-- FREQ cell `k`, the count of symbol SYM_MIN + k (R45); 0 after reset (R54). -/
def State.freqCell (s : State) (k : Nat) : BitVec 32 := (Mem.read s.freq k).getD 0

/-- CT entry `k`, of symbol SYM_MIN + k (R46); none when VALID = 0. -/
def State.ctEntry (s : State) (k : Nat) : Option CtCell := Mem.read s.ct k

/-- `CT[s].cw`: the bit sequence of length LEN that BITS holds, left-aligned (R46). -/
def CtCell.cw (e : CtCell) : Bits := (List.range e.len.toNat).map fun j => e.bits.getMsbD j

/-- The entry that holds a codeword: LEN its length, BITS the codeword left-aligned, the bits beyond LEN 0 (R46). -/
def CtCell.ofCw (cw : Bits) : CtCell :=
  { len := BitVec.ofNat 7 cw.length, bits := BitVec.ofNat 94 (val cw * 2 ^ (94 - cw.length)) }

/-- The valid entries of CT with their codewords, in ascending code point. -/
def State.ctTable (s : State) : List (Nat × Bits) :=
  (List.range Config.nsym).filterMap fun k => (s.ctEntry k).map fun e => (k, e.cw)

/-- `Avail` on IBUF: the bits lie below INLEN (R76). -/
def State.avail (s : State) (c n : Nat) : Bool := Sys2Proof.avail s.inlen c n

/-- `InSeq` on IBUF (R78). -/
def State.inSeq (s : State) (c n : Nat) : Bits := Sys2Proof.inSeq s.inBit c n

/-- `InBits` on IBUF (R77). -/
def State.inBits (s : State) (c n : Nat) : Nat := Sys2Proof.inBits s.inBit c n

/-- `EODecode(p)` on IBUF (R146). -/
def State.eoDecode (s : State) (p : Nat) : EORes := Sys2Proof.eoDecode s.par.eoMaxGroup s.inBit s.inlen p

end Sys2Proof.Machine
end

