-- ==== Sys2Proof/Machine/Flags.lean ====
section
/-! DEFINITION. STATUS and ERR, the block's only flags (R33, R34): their codes, completion (R250), and the operand
checks that decide whether a command is legal (R35, R250). -/

namespace Sys2Proof.Machine

/-- The value of STATUS.STATE (R33). -/
def Status.code : Status → Nat
  | .ready => 0
  | .busy => 1
  | .fault => 3

/-- The value of ERR (R270). -/
def errCode : ErrKind → Nat
  | .none => 0
  | .malformedHeader => 1
  | .malformedToken => 2
  | .invalidInput => 3
  | .boundsExceeded => 4
  | .capacityExceeded => 5
  | .illegalCommand => 6

/-- Successful completion: `STATE <- READY; ERR <- 0` (R250); the working state does not survive the operation (R30). -/
def State.complete (s : State) : State := ((s.setStatus .ready .none).setCur 0).setTokLeft 0

/-- INLEN is legal for a decode operation (R35). -/
def State.inlenLegal (s : State) : Bool := decide (s.inlen ≤ s.par.inMax)

/-- OLEN is legal for an encode operation (R35). -/
def State.olenLegal (s : State) : Bool := decide (s.olen ≤ s.par.obMax)

/-- NTOK is legal for an operation that reads TOK (R35). -/
def State.ntokLegal (s : State) : Bool := decide (s.ntok ≤ s.par.tokMax)

/-- No valid CT entry has LEN above CW_MAX (R46, R250). -/
def State.ctLegal (s : State) : Bool :=
  (List.range Config.nsym).all fun k =>
    match s.ctEntry k with
    | none => true
    | some e => decide (e.len.toNat ≤ Config.cwMax)

end Sys2Proof.Machine
end

