-- ==== Sys2Proof/Machine/Ops.lean ====
section
/-! DEFINITION. The shared operations: fault entry (R281) and the way out of it (R257, R300), command issue (R250),
appending bits to OBUF (R79, R144) and symbols to OUT (R241, R242). An operation that raises kind K answers `.error K`:
what it had done by then is discarded, because fault entry leaves every other register and memory unspecified. -/

namespace Sys2Proof.Machine

/-! ## Fault entry and reset -/

/-- What register `r` holds after a fault entry: an unspecified value of the register's width (R281). -/
def freeRegister (s : State) (r : Reg) : Nat := Config.freeReg s.epoch r.num % 2 ^ r.width s.par

/-- FREQ after a fault entry: every cell unspecified (R281). -/
def freeFreqMem (e : Nat) : Mem (BitVec 32) :=
  (List.range Config.nsym).foldl (fun m k => Mem.writeFreq m k (Config.freeFreq e k)) []

/-- CT after a fault entry: every entry unspecified (R281). -/
def freeCtMem (e : Nat) : Mem CtCell :=
  (List.range Config.nsym).foldl
    (fun m k => Mem.writeCt m k ((Config.freeCt e k).map fun f => { len := f.1, bits := f.2 })) []

/-- Fault entry (R281): `STATE <- FAULT; ERR <- code(K)`. Nothing is saved and control goes nowhere; every other
register and every memory then holds an unspecified value (a free value) until reset, and the cursor is lost (R36).
The parameters are fixed, and the host's side (its script, its last answer) is not the block's. -/
def State.faultEntry (s : State) (k : ErrKind) : State :=
  { par := s.par, status := .fault, err := k,
    pos := freeRegister s .pos, inlen := freeRegister s .inlen, nbits := freeRegister s .nbits,
    val := freeRegister s .val, olen := freeRegister s .olen, outlen := freeRegister s .outlen,
    ntok := freeRegister s .ntok,
    ibuf := [], obuf := [], out := [], tok := [], freq := freeFreqMem s.epoch, ct := freeCtMem s.epoch,
    cur := 0, tokLeft := 0, script := s.script, rdata := s.rdata, epoch := s.epoch + 1, draws := s.draws,
    ctGen := 0, ctWrites := [] }

/-- Reset (R257, R300), the only way out of FAULT (R282): every register and table takes its reset value, STATE is
READY and ERR 0; the contents of IBUF, OBUF, OUT and TOK are unspecified anew. -/
def State.resetBlock (s : State) : State :=
  { par := s.par, status := .ready, err := .none, pos := 0, inlen := 0, nbits := 0, val := 0, olen := 0, outlen := 0,
    ntok := 0, ibuf := [], obuf := [], out := [], tok := [], freq := [], ct := [], cur := 0, tokLeft := 0,
    script := s.script, rdata := s.rdata, epoch := s.epoch + 1, draws := s.draws,
    ctGen := 0, ctWrites := [] }

/-- Make every CT entry invalid (R173, R195), and let `m` be the valid entries; LEN and BITS of the others are any value
anew (V2). -/
def State.replaceCt (s : State) (m : Mem CtCell) : State := (s.setCt m).setCtGen (s.ctGen + 1)

/-- How an operation ends: completion, or fault entry from the state it started in (R250, R281). -/
def settle (s : State) : Except ErrKind State → State
  | .ok t => t.complete
  | .error k => s.faultEntry k

/-- Command issue (R250, R251) for every operation but RESET: in FAULT the command is ignored; in READY the operand
checks come first, then the operation's body runs; in BUSY a command is forbidden (R251, R310). -/
def issue (legal : Bool) (body : State → Except ErrKind State) (s : State) : Host.Outcome State Fault Refusal :=
  match s.status with
  | .fault => .next s
  | .busy => .refused .hostAccessWhileBusy
  | .ready => .next (settle s (if legal then body s else .error .illegalCommand))

/-! ## Appending bits to OBUF -/

/-- `Emit(b)` (R79): the capacity is tested once for the whole of b, before any cell is written. -/
def emit (s : State) (b : Bits) : Except ErrKind State :=
  if s.olen + b.length > s.par.obMax then .error .capacityExceeded
  else .ok ((s.setObuf (Mem.writeSeq s.obuf s.olen b)).setOlen (s.olen + b.length))

/-- `EOEmit(n)` (R144): 0 has no code (R145). -/
def eoEmit (s : State) (n : Nat) : Except ErrKind State :=
  if n = 0 then .error .invalidInput else emit s (eoCode n)

/-! ## Appending symbols to OUT -/

/-- `OUT[OUTLEN] <- v; OUTLEN <- OUTLEN + 1`. -/
def State.pushOut (s : State) (v : Sym) : State := (s.setOut (Mem.write s.out s.outlen v)).setOutlen (s.outlen + 1)

/-- `SymAppend(s)` (R241). -/
def symAppend (s : State) (v : Sym) : Except ErrKind State :=
  if s.outlen ≥ s.par.outMax then .error .capacityExceeded else .ok (s.pushOut v)

/-- The loop of `CopyBack` (R242): `n` symbols still to copy, the next one from cell `a`. Each load sees the stores of
the earlier rounds (R83, R312). -/
def copyLoop : Nat → Nat → State → State
  | 0, _, s => s
  | n + 1, a, s => copyLoop n (a + 1) (s.pushOut (s.outCell a))

/-- `CopyBack(o, l)` (R242): both tests come before the first symbol is appended; OUTLEN is read once for the start. -/
def copyBack (s : State) (o l : Nat) : Except ErrKind State :=
  if o > s.outlen then .error .malformedToken
  else if s.outlen + l > s.par.outMax then .error .capacityExceeded
  else .ok (copyLoop l (s.outlen - o) s)

end Sys2Proof.Machine
end

