-- ==== Sys2Proof/Machine/EliasOmega.lean ====
section
/-! DEFINITION. The Bit-Integer Codec: EO_ENC (R143) and EO_DEC (R148). -/

namespace Sys2Proof.Machine

/-- EO_ENC (R143): `EOEmit(VAL)`. -/
def eoEncBody (s : State) : Except ErrKind State := eoEmit s s.val

/-- EO_ENC, command word OP = 1. -/
def execEoEnc (s : State) : Host.Outcome State Fault Refusal := issue s.olenLegal eoEncBody s

/-- EO_DEC (R148): a code cut off by INLEN is MalformedToken (R274). -/
def eoDecBody (s : State) : Except ErrKind State :=
  match s.eoDecode s.pos with
  | .value n k => .ok ((s.setVal n).setNbits k)
  | .truncated => .error .malformedToken
  | .boundsExceeded => .error .boundsExceeded

/-- EO_DEC, command word OP = 2. -/
def execEoDec (s : State) : Host.Outcome State Fault Refusal := issue s.inlenLegal eoDecBody s

end Sys2Proof.Machine
end

