-- ==== Sys2Proof/Machine/Header.lean ====
section
/-! DEFINITION. The Header Codec: HDR_SER (R191) and HDR_DES (R195). -/

namespace Sys2Proof.Machine

/-- One entry of a header (R103): the symbol, the codeword's length, the codeword. -/
def serEntry (s : State) (k : Nat) (e : CtCell) : Except ErrKind State :=
  match emit s (binN Config.symw (s.par.symMin + k)) with
  | .error x => .error x
  | .ok s1 =>
    match eoEmit s1 e.len.toNat with
    | .error x => .error x
    | .ok s2 => emit s2 e.cw

/-- The entries of the valid symbols among the given entry numbers, in that order (R191). -/
def serEntries : List Nat → State → Except ErrKind State
  | [], s => .ok s
  | k :: ks, s =>
    match s.ctEntry k with
    | none => serEntries ks s
    | some e =>
      match serEntry s k e with
      | .error x => .error x
      | .ok t => serEntries ks t

/-- K: the number of valid entries (R191). -/
def ctCount (s : State) : Nat := ((List.range Config.nsym).filter fun k => (s.ctEntry k).isSome).length

/-- `HdrSer()` (R191). -/
def hdrSer (s : State) : Except ErrKind State :=
  match eoEmit s (ctCount s) with
  | .error x => .error x
  | .ok s1 => serEntries (List.range Config.nsym) s1

/-- HDR_SER, command word OP = 4. -/
def execHdrSer (s : State) : Host.Outcome State Fault Refusal := issue (s.olenLegal && s.ctLegal) hdrSer s

/-- An integer of the header at the cursor: cut off is MalformedHeader (R274). -/
def headerInt (s : State) : Except ErrKind (Nat × State) :=
  match s.eoDecode s.cur with
  | .value n k => .ok (n, s.setCur (s.cur + k))
  | .truncated => .error .malformedHeader
  | .boundsExceeded => .error .boundsExceeded

/-- The codeword of an entry, `l` bits at the cursor, into CT entry `k` (R195): a length above CW_MAX is tested before
the bits' availability (D30). -/
def desCodeword (s : State) (k l : Nat) : Except ErrKind State :=
  if l > Config.cwMax then .error .capacityExceeded
  else if s.avail s.cur l = false then .error .malformedHeader
  else .ok ((s.setCt (Mem.write s.ct k (CtCell.ofCw (s.inSeq s.cur l)))).setCur (s.cur + l))

/-- One entry of a header read at the cursor (R195): symbol, duplicate test, length, codeword. -/
def desEntry (s : State) : Except ErrKind State :=
  if s.avail s.cur Config.symw = false then .error .malformedHeader
  else
    let sym := s.inBits s.cur Config.symw
    let s1 := s.setCur (s.cur + Config.symw)
    if s.par.symOk sym = false then .error .malformedHeader
    else if (s1.ctEntry (sym - s.par.symMin)).isSome then .error .malformedHeader
    else
      match headerInt s1 with
      | .error x => .error x
      | .ok (l, s2) => desCodeword s2 (sym - s.par.symMin) l

/-- The `for` loop of `HdrDes` (R195). -/
def desEntries : Nat → State → Except ErrKind State
  | 0, s => .ok s
  | n + 1, s =>
    match desEntry s with
    | .error x => .error x
    | .ok t => desEntries n t

/-- `HdrDes(p)` (R195): CT is emptied first; on success the cursor stands where the header ended. -/
def hdrDes (s : State) (p : Nat) : Except ErrKind State :=
  match headerInt ((s.replaceCt []).setCur p) with
  | .error x => .error x
  | .ok (n, s1) => desEntries n s1

/-- HDR_DES: `NBITS <- HdrDes(POS)` (R195). -/
def hdrDesBody (s : State) : Except ErrKind State :=
  match hdrDes s s.pos with
  | .error x => .error x
  | .ok t => .ok (t.setNbits (t.cur - s.pos))

/-- HDR_DES, command word OP = 5. -/
def execHdrDes (s : State) : Host.Outcome State Fault Refusal := issue s.inlenLegal hdrDesBody s

end Sys2Proof.Machine
end

