-- ==== Sys2Proof/Machine/Huffman.lean ====
section
/-! DEFINITION. The Huffman Table Builder: HUF_BUILD (R173). -/

namespace Sys2Proof.Machine

/-- A node of the tree (R51, R171): a leaf holds its symbol's entry number; the left child is the one labelled 0. -/
inductive Node where
  | leaf (k : Nat) (f : Nat)
  | internal (left right : Node) (f : Nat)
  deriving DecidableEq, Repr

/-- The frequency a node carries. -/
def Node.freq : Node → Nat
  | .leaf _ f => f
  | .internal _ _ f => f

/-- Insert a node into a list sorted by descending frequency, before the nodes of its own frequency. -/
def insertDescending (x : Node) : List Node → List Node
  | [] => [x]
  | y :: ys => if y.freq ≤ x.freq then x :: y :: ys else y :: insertDescending x ys

/-- `StableSortDescending` (R172): highest frequency first; nodes of equal frequency keep their order. -/
def stableSortDescending : List Node → List Node
  | [] => []
  | x :: xs => insertDescending x (stableSortDescending xs)

/-- One round of `BuildTree` (R172): sort, pop the last node (label 0) and the one before it (label 1), and reinsert
their parent at the end. A list of fewer than two nodes is left as it is. -/
def mergeStep (w : List Node) : List Node :=
  match (stableSortDescending w).reverse with
  | a :: b :: rest => rest.reverse ++ [.internal a b (a.freq + b.freq)]
  | _ => w

/-- `BuildTree(W)` (R172): rounds until one node remains; each round removes one node, so the length of W is fuel enough. -/
def buildTree : Nat → List Node → Option Node
  | 0, w => w.head?
  | fuel + 1, w => if w.length ≤ 1 then w.head? else buildTree fuel (mergeStep w)

/-- The initial working set (R175): the leaves of the symbols whose count is not 0, in ascending code point. -/
def initialLeaves (s : State) : List Node :=
  (List.range Config.nsym).filterMap fun k =>
    if (s.freqCell k).toNat > 0 then some (.leaf k (s.freqCell k).toNat) else none

/-- `Assign(node, cw)` (R176): the entries the subtree contributes, 0 for each left branch and 1 for each right one. -/
def Node.assign : Node → Bits → List (Nat × Bits)
  | .leaf k _, cw => [(k, cw)]
  | .internal l r _, cw => l.assign (cw ++ [false]) ++ r.assign (cw ++ [true])

/-- The codeword table that holds exactly the given entries (R46). -/
def ctOf (entries : List (Nat × Bits)) : Mem CtCell :=
  entries.foldl (fun m e => Mem.write m e.1 (CtCell.ofCw e.2)) []

/-- `HufBuild()` (R173): every entry is made invalid, then the tree's leaves give the new ones. -/
def hufBuild (s : State) : Except ErrKind State :=
  match buildTree (initialLeaves s).length (initialLeaves s) with
  | none => .error .invalidInput
  | some root => .ok (s.replaceCt (ctOf (root.assign [])))

/-- HUF_BUILD, command word OP = 3. It uses no operand register, so every state is legal for it (R250, R278). -/
def execHufBuild (s : State) : Host.Outcome State Fault Refusal := issue true hufBuild s

end Sys2Proof.Machine
end

