-- ==== Sys2Proof/Machine/TokenStream.lean ====
section
/-! DEFINITION. The Token Stream Codec: TOK_SER (R212), TOK_DES (R218), and the tokens LIT (R220) and MATCH (R222). -/

namespace Sys2Proof.Machine

/-! ## Serialize -/

/-- `SerLit(s)` (R213). -/
def serLit (s : State) (v : Sym) : Except ErrKind State :=
  if s.par.symOk v.toNat = false then .error .invalidInput
  else
    match s.ctEntry (v.toNat - s.par.symMin) with
    | none => .error .invalidInput
    | some e => emit s (true :: e.cw)

/-- `SerMatch(o, l, produced)` (R214). -/
def serMatch (s : State) (o l produced : Nat) : Except ErrKind State :=
  if o = 0 || l = 0 then .error .invalidInput
  else if o > produced then .error .invalidInput
  else
    match emit s [false] with
    | .error x => .error x
    | .ok s1 =>
      match eoEmit s1 o with
      | .error x => .error x
      | .ok s2 => eoEmit s2 l

/-- The `for` loop of `TokSer` (R212): `n` tokens still to write, the next one `TOK[i]`. -/
def serTokens : Nat → Nat → Nat → State → Except ErrKind State
  | 0, _, _, s => .ok s
  | n + 1, i, produced, s =>
    match s.tokAt i with
    | .lit v =>
      match serLit s v with
      | .error x => .error x
      | .ok t => serTokens n (i + 1) (produced + 1) t
    | .mtch o l =>
      match serMatch s o l produced with
      | .error x => .error x
      | .ok t => serTokens n (i + 1) (produced + l) t

/-- `TokSer()` (R212). -/
def tokSer (s : State) : Except ErrKind State :=
  match eoEmit s s.ntok with
  | .error x => .error x
  | .ok t => serTokens s.ntok 0 0 t

/-- TOK_SER, command word OP = 6. -/
def execTokSer (s : State) : Host.Outcome State Fault Refusal :=
  issue (s.olenLegal && s.ntokLegal && s.ctLegal) tokSer s

/-! ## The tokens -/

/-- `ExecLit(cur)` (R220), with the cursor at the bit after the flag. -/
def litBody (s : State) : Except ErrKind State :=
  match readLit s.par.symMin s.ctTable s.inBit s.inlen s.cur with
  | .error x => .error x
  | .ok (v, k) =>
    match symAppend s v with
    | .error x => .error x
    | .ok t => .ok (t.setCur (s.cur + k))

/-- `ExecMatch(cur)` (R222), with the cursor at the bit after the flag: both integers are read before the offset is
tested. -/
def matchBody (s : State) : Except ErrKind State :=
  match readMatch s.par.eoMaxGroup s.inBit s.inlen s.cur with
  | .error x => .error x
  | .ok (o, l, k) =>
    match copyBack s o l with
    | .error x => .error x
    | .ok t => .ok (t.setCur (s.cur + k))

/-- How a token ends: the next token's state, STATUS untouched (R220, R222), or fault entry (R281). -/
def settleToken (s : State) : Except ErrKind State → State
  | .ok t => t
  | .error k => s.faultEntry k

/-- LIT, flag bit 1 (R220). -/
def execLitTok (s : State) : Host.Outcome State Fault Refusal := .next (settleToken s (litBody s))

/-- MATCH, flag bit 0 (R222). -/
def execMatchTok (s : State) : Host.Outcome State Fault Refusal := .next (settleToken s (matchBody s))

/-! ## Deserialize -/

/-- One pass of the `for` loop of `TokDes` (R218): the flag, then the token it starts. -/
def tokenPass (s : State) : Except ErrKind State :=
  if s.avail s.cur 1 = false then .error .malformedToken
  else if s.inBit s.cur then litBody (s.setCur (s.cur + 1))
  else matchBody (s.setCur (s.cur + 1))

/-- The `for` loop of `TokDes` (R218). It ends at the latest when the data runs out, whatever `n` is (R320). -/
def tokenLoop : Nat → State → Except ErrKind State
  | 0, s => .ok s
  | n + 1, s =>
    match tokenPass s with
    | .error x => .error x
    | .ok t => tokenLoop n t

/-- `TokDes(p)` (R218): the output starts empty; on success the cursor stands after the last token. -/
def tokDes (s : State) (p : Nat) : Except ErrKind State :=
  match s.eoDecode p with
  | .truncated => .error .malformedToken
  | .boundsExceeded => .error .boundsExceeded
  | .value n k => tokenLoop n ((s.setOutlen 0).setCur (p + k))

/-- TOK_DES: `NBITS <- TokDes(POS)` (R218). -/
def tokDesBody (s : State) : Except ErrKind State :=
  match tokDes s s.pos with
  | .error x => .error x
  | .ok t => .ok (t.setNbits (t.cur - s.pos))

/-- TOK_DES, command word OP = 7. -/
def execTokDes (s : State) : Host.Outcome State Fault Refusal := issue (s.inlenLegal && s.ctLegal) tokDesBody s

end Sys2Proof.Machine
end

