-- ==== Sys2Proof/Machine/Composite.lean ====
section
/-! DEFINITION. The composite operations ENCODE (R253) and DECODE (R255), and RESET (R257). -/

namespace Sys2Proof.Machine

/-- ENCODE (R253): `HufBuild(); HdrSer(); TokSer()`. -/
def encodeBody (s : State) : Except ErrKind State :=
  match hufBuild s with
  | .error x => .error x
  | .ok s1 =>
    match hdrSer s1 with
    | .error x => .error x
    | .ok s2 => tokSer s2

/-- ENCODE, command word OP = 8. It overwrites CT before it reads it, so CT is not checked (R250). -/
def execEncode (s : State) : Host.Outcome State Fault Refusal := issue (s.olenLegal && s.ntokLegal) encodeBody s

/-- DECODE (R255): the body starts at the bit where the header ended; NBITS is the sum of both lengths. -/
def decodeBody (s : State) : Except ErrKind State :=
  match hdrDes s s.pos with
  | .error x => .error x
  | .ok s1 =>
    match tokDes s1 s1.cur with
    | .error x => .error x
    | .ok s2 => .ok (s2.setNbits ((s1.cur - s.pos) + (s2.cur - s1.cur)))

/-- DECODE, command word OP = 9. -/
def execDecode (s : State) : Host.Outcome State Fault Refusal := issue s.inlenLegal decodeBody s

/-- RESET, command word OP = 15 (R257): accepted in READY and in FAULT; it raises nothing. -/
def execReset (s : State) : Host.Outcome State Fault Refusal :=
  match s.status with
  | .busy => .refused .hostAccessWhileBusy
  | .ready => .next s.resetBlock
  | .fault => .next s.resetBlock

end Sys2Proof.Machine
end

