-- ==== Sys2Proof/Machine/Dispatch.lean ====
section
/-! DEFINITION. exec: one arm per constructor of Instr, each one direct call of its meaning. -/

namespace Sys2Proof.Machine

def exec (i : Instr) (s : State) : Host.Outcome State Fault Refusal :=
  match i with
  | .eoEnc => Sys2Proof.Machine.execEoEnc s
  | .eoDec => Sys2Proof.Machine.execEoDec s
  | .hufBuild => Sys2Proof.Machine.execHufBuild s
  | .hdrSer => Sys2Proof.Machine.execHdrSer s
  | .hdrDes => Sys2Proof.Machine.execHdrDes s
  | .tokSer => Sys2Proof.Machine.execTokSer s
  | .tokDes => Sys2Proof.Machine.execTokDes s
  | .encode => Sys2Proof.Machine.execEncode s
  | .decode => Sys2Proof.Machine.execDecode s
  | .reset => Sys2Proof.Machine.execReset s
  | .litTok => Sys2Proof.Machine.execLitTok s
  | .matchTok => Sys2Proof.Machine.execMatchTok s

end Sys2Proof.Machine
end

