-- ==== Sys2Proof/Machine/HostPort.lean ====
section
/-! DEFINITION. The host port: reads and writes of registers and memory cells by the state of the block (R31, R38, R47),
the byte view of IBUF and OBUF (R72), and LOAD (R137). A write to CMD is a command and is Machine/Fetch.lean's. -/

namespace Sys2Proof

/-- The capacity of a bit memory (R40). -/
def BitMem.size (p : Params) : BitMem → Nat
  | .ibuf => p.inMax
  | .obuf => p.obMax

/-- The number of bytes of the port's view of a bit memory (R72): every byte that holds at least one of its bits. -/
def BitMem.bytes (p : Params) (m : BitMem) : Nat := (m.size p + 7) / 8

/-- Every cell the action names exists (R40, R45, R46); a byte exists when one of its bits does. -/
def HostAct.cellsExist (p : Params) : HostAct → Bool
  | .wrReg _ _ => true
  | .rdReg _ => true
  | .wrBit m i _ => decide (i < m.size p)
  | .rdBit m i => decide (i < m.size p)
  | .wrBytes m j bs => decide (j + bs.length ≤ m.bytes p)
  | .rdBytes m j n => decide (j + n ≤ m.bytes p)
  | .wrOut i _ => decide (i < p.outMax)
  | .rdOut i => decide (i < p.outMax)
  | .wrTok i _ => decide (i < p.tokMax)
  | .rdTok i => decide (i < p.tokMax)
  | .wrFreq k _ => decide (k < Config.nsym)
  | .rdFreq k => decide (k < Config.nsym)
  | .wrCt k _ _ _ => decide (k < Config.nsym)
  | .rdCt k => decide (k < Config.nsym)
  | .load b => decide (b.length ≤ p.inMax)
  | .loadObuf n => decide (n ≤ p.inMax) && decide (n ≤ p.obMax)
  | .hwReset => true

/-- The host never writes STATUS, ERR, NBITS, OUTLEN or OUT: a write to one of them is ignored in every state (R38). -/
def HostAct.ignored : HostAct → Bool
  | .wrReg .status _ => true
  | .wrReg .err _ => true
  | .wrReg .nbits _ => true
  | .wrReg .outlen _ => true
  | .wrOut _ _ => true
  | _ => false

/-- The action reads a register or a cell: the port answers it. -/
def HostAct.reads : HostAct → Bool
  | .rdReg _ => true
  | .rdBit _ _ => true
  | .rdBytes _ _ _ => true
  | .rdOut _ => true
  | .rdTok _ => true
  | .rdFreq _ => true
  | .rdCt _ => true
  | .wrReg _ _ => false
  | .wrBit _ _ _ => false
  | .wrBytes _ _ _ => false
  | .wrOut _ _ => false
  | .wrTok _ _ => false
  | .wrFreq _ _ => false
  | .wrCt _ _ _ _ => false
  | .load _ => false
  | .loadObuf _ => false
  | .hwReset => false

end Sys2Proof

namespace Sys2Proof.Machine

/-- The value of a register (R31); CMD holds nothing (R32). -/
def State.regValue (s : State) : Reg → Nat
  | .cmd => Config.freePort s.draws % 2 ^ Reg.width s.par .cmd
  | .status => s.status.code
  | .err => errCode s.err
  | .pos => s.pos
  | .inlen => s.inlen
  | .nbits => s.nbits
  | .val => s.val
  | .olen => s.olen
  | .outlen => s.outlen
  | .ntok => s.ntok

/-- Write a register in READY (R31): the read-only registers ignore the write (R38), and CMD stores nothing (R32). -/
def State.writeReg (s : State) (v : Nat) : Reg → State
  | .cmd => s
  | .status => s
  | .err => s
  | .pos => s.setPos v
  | .inlen => s.setInlen v
  | .nbits => s
  | .val => s.setVal v
  | .olen => s.setOlen v
  | .outlen => s
  | .ntok => s.setNtok v

/-- A bit of one of the two bit memories. -/
def State.bitAt (s : State) : BitMem → Nat → Bool
  | .ibuf, i => s.inBit i
  | .obuf, i => s.obufBit i

/-- Write consecutive bits of one of the two bit memories. -/
def State.writeBits (s : State) (i : Nat) (b : Bits) : BitMem → State
  | .ibuf => s.setIbuf (Mem.writeSeq s.ibuf i b)
  | .obuf => s.setObuf (Mem.writeSeq s.obuf i b)

/-- Byte `j` of one of the two bit memories (R72); a bit of it that has no cell reads as a free value. -/
def State.byteAt (s : State) (m : BitMem) (j : Nat) : Byte :=
  byteOfBits ((List.range 8).map fun k => s.bitAt m (8 * j + k))

/-- How often the host has written CT entry `k` in this epoch. -/
def State.ctWritesAt (s : State) (k : Nat) : Nat := (Mem.read s.ctWrites k).getD 0

/-- LEN and BITS of an entry with VALID = 0: any value (V2), the same until an operation or the host writes the entry
(R47). -/
def State.ctFree (s : State) (k : Nat) : BitVec 7 × BitVec 94 :=
  Config.freeCtFields s.epoch s.ctGen (s.ctWritesAt k) k

/-- What a CT entry reads as: of an entry with VALID = 0, LEN and BITS are any value (R46, V2). -/
def State.ctPort (s : State) (k : Nat) : PortVal :=
  match s.ctEntry k with
  | some e => .ct true e.len e.bits
  | none => .ct false (s.ctFree k).1 (s.ctFree k).2

/-- The answer in READY to an action that reads (R38, R47); none for an action that writes. -/
def State.answer (s : State) : HostAct → Option PortVal
  | .rdReg r => some (.reg (s.regValue r))
  | .rdBit m i => some (.bit (s.bitAt m i))
  | .rdBytes m j n => some (.bytes ((List.range n).map fun i => s.byteAt m (j + i)))
  | .rdOut i => some (.sym (s.outCell i))
  | .rdTok i => some (.tok (s.tokCell i))
  | .rdFreq k => some (.freq (s.freqCell k))
  | .rdCt k => some (s.ctPort k)
  | .wrReg _ _ => none
  | .wrBit _ _ _ => none
  | .wrBytes _ _ _ => none
  | .wrOut _ _ => none
  | .wrTok _ _ => none
  | .wrFreq _ _ => none
  | .wrCt _ _ _ _ => none
  | .load _ => none
  | .loadObuf _ => none
  | .hwReset => none

/-- The answer in FAULT: STATUS and ERR as they are, and nothing else, since the host may read only those two (R281). -/
def State.faultAnswer (s : State) : HostAct → Option PortVal
  | .rdReg .status => some (.reg s.status.code)
  | .rdReg .err => some (.reg (errCode s.err))
  | _ => none

/-- What an action writes in READY (R38); OUT and the read-only registers ignore the write, and a read writes nothing. Of
a byte that reaches past the last cell, the bits that have a cell are written. -/
def State.hostWrite (s : State) : HostAct → State
  | .wrReg r v => s.writeReg v r
  | .wrBit m i b => s.writeBits i [b] m
  | .wrBytes m j bs => s.writeBits (8 * j) ((bitsOfBytes bs).take (m.size s.par - 8 * j)) m
  | .wrTok i c => s.setTok (Mem.write s.tok i c)
  | .wrFreq k v => s.setFreq (Mem.writeFreq s.freq k v)
  | .wrCt k valid len bits =>
    (s.setCt (Mem.writeCt s.ct k (if valid then some { len := len, bits := bits } else none))).setCtWrites
      (Mem.write s.ctWrites k (s.ctWritesAt k + 1))
  | .load b => s.writeBits 0 b .ibuf
  | .loadObuf n => s.writeBits 0 ((List.range n).map s.obufBit) .ibuf
  | .wrOut _ _ => s
  | .rdReg _ => s
  | .rdBit _ _ => s
  | .rdBytes _ _ _ => s
  | .rdOut _ => s
  | .rdTok _ => s
  | .rdFreq _ => s
  | .rdCt _ => s
  | .hwReset => s

/-- A host access in READY (R38): a read is answered and changes nothing in the block (R47), a write takes effect. A value
the port cannot carry is refused, and a cell that does not exist is a fault. -/
def readyAccess (a : HostAct) (s : State) : Host.Outcome State Fault Refusal :=
  if a.fits s.par = false then .refused .hostValueTooWide
  else if a.cellsExist s.par = false then .fault .noSuchCell
  else
    match s.answer a with
    | some v => .next ((s.setRdata v).setDraws (if a = .rdReg .cmd then s.draws + 1 else s.draws))
    | none => .next (s.hostWrite a)

/-- A host access in FAULT (R38, R281): a read of STATUS or ERR is answered, any other read is refused whatever cell it
names (V4), and every write is ignored. -/
def faultAccess (a : HostAct) (s : State) : Host.Outcome State Fault Refusal :=
  match s.faultAnswer a with
  | some v => .next (s.setRdata v)
  | none => if a.reads then .refused .hostReadInFault else .next s

/-- A host access that is neither a command nor the reset input, by STATE (R38). Some writes are ignored in every state;
in BUSY only STATUS may be read (R310). -/
def hostAccess (a : HostAct) (s : State) : Host.Outcome State Fault Refusal :=
  if a.ignored then .next s
  else
    match s.status with
    | .ready => readyAccess a s
    | .fault => faultAccess a s
    | .busy => if a = .rdReg .status then .next (s.setRdata (.reg s.status.code)) else .refused .hostAccessWhileBusy

end Sys2Proof.Machine
end

