-- ==== Sys2Proof/Machine/Fetch.lean ====
section
/-! DEFINITION. What the block does next: the host's next action, or, inside a token loop, the next token. -/

namespace Sys2Proof.Machine

/-- What fetching gives: an instruction to run from a state, or an outcome that is settled without one. -/
inductive Fetched where
  | run (i : Instr) (s : State)
  | settled (o : Host.Outcome State Fault Refusal)

/-- The end of the token loop (R225): `NBITS <- cur - POS` (R36) and completion (R250). -/
def State.finishTokens (s : State) : State := (s.setNbits (s.cur - s.pos)).complete

/-- The next token of a loop in progress (R218): its flag is read at the cursor and names the instruction (R225). -/
def fetchToken (s : State) : Fetched :=
  if s.tokLeft = 0 then .settled (.next s.finishTokens)
  else if s.avail s.cur 1 = false then .settled (.next (s.faultEntry .malformedToken))
  else .run (decodeFlag (s.inBit s.cur)) (s.setCur (s.cur + 1))

/-- A write of `w` to CMD (R250, R251): in READY a reserved word raises IllegalCommand and any other names the
instruction; in FAULT a reserved word is ignored, and the meanings ignore every command but RESET. -/
def fetchCommand (w : Byte) (s : State) : Fetched :=
  match s.status with
  | .busy => .settled (.refused .hostAccessWhileBusy)
  | .ready =>
    match decodeCmd w with
    | .ok i => .run i s
    | .error _ => .settled (.next (s.faultEntry .illegalCommand))
  | .fault =>
    match decodeCmd w with
    | .ok i => .run i s
    | .error _ => .settled (.next s)

/-- The host's next action, the rest of the script left pending. -/
def fetchHost (a : HostAct) (s : State) : Fetched :=
  match a with
  | .hwReset => .settled (.next s.resetBlock)
  | .wrReg .cmd v => if v < 256 then fetchCommand (BitVec.ofNat 8 v) s else .settled (.refused .hostValueTooWide)
  | a => .settled (hostAccess a s)

/-- Fetch. The reset input comes before everything (R300: an operation in progress is abandoned). A token loop in
progress runs its next token; no host action is taken in BUSY (R310). Otherwise the host's next action is taken; with
none pending the block waits (R301). -/
def fetch (s : State) : Fetched :=
  match s.script with
  | .hwReset :: rest => fetchHost .hwReset (s.setScript rest)
  | [] => if s.status = .busy then fetchToken s else .settled (.next s)
  | a :: rest => if s.status = .busy then fetchToken s else fetchHost a (s.setScript rest)

/-- What follows a token in the loop of R218: one token fewer to process, and completion after the last one. -/
def retireToken (s : State) : State :=
  if s.status = .busy then
    if s.tokLeft ≤ 1 then s.finishTokens else s.setTokLeft (s.tokLeft - 1)
  else s

/-- What the step adds after an instruction: nothing for a command, the loop's bookkeeping for a token. -/
def retire : Instr → State → State
  | .litTok, s => retireToken s
  | .matchTok, s => retireToken s
  | .eoEnc, s => s
  | .eoDec, s => s
  | .hufBuild, s => s
  | .hdrSer, s => s
  | .hdrDes, s => s
  | .tokSer, s => s
  | .tokDes, s => s
  | .encode, s => s
  | .decode, s => s
  | .reset, s => s

/-! ## Placing an instruction where it is fetched next -/

/-- The length of the longest token (R105, R106): the flag, then the longest codeword or the two longest codes. -/
def longestToken (p : Params) : Nat := 1 + max Config.cwMax (2 * eoLen (2 ^ p.eoMaxGroup - 1))

/-- The stream bits of a token's table word: bit i of the word is bit i of the token (its bit 0 the flag), and every bit
above `nbits` is 0. -/
def tokenTableBits (p : Params) (nbits w : Nat) : Bits :=
  (List.range (longestToken p)).map fun i => decide (i < nbits) && w.testBit i

/-- Put a command word at the head of the host's script, with the block in READY, where a command is taken. -/
def State.withCommand (s : State) (w : Nat) : State := (s.setStatus .ready .none).setScript (.wrReg .cmd w :: s.script)

/-- Put a token at the cursor of a token loop in progress, with its bits below INLEN and a token still to process. -/
def State.withToken (s : State) (b : Bits) : State :=
  ((((s.setStatus .busy .none).setIbuf (Mem.writeSeq s.ibuf s.cur b)).setInlen (max s.inlen (s.cur + b.length))).setTokLeft
    (max 1 s.tokLeft)).setScript (s.script.dropWhile fun a => a == .hwReset)

end Sys2Proof.Machine
end

