-- ==== Sys2Proof/Machine/Step.lean ====
section
/-! DEFINITION. One step: fetch, run the instruction, retire it. -/

namespace Sys2Proof.Machine

/-- One step of the machine. A command is one atomic step (R17). -/
def step (s : State) : Host.Outcome State Fault Refusal :=
  match fetch s with
  | .settled o => o
  | .run i t =>
    match exec i t with
    | .next u => .next (retire i u)
    | .fault r => .fault r
    | .refused r => .refused r

/-- `s` with a table word stored where `step` fetches its next instruction: a command word as the host's next action, a
token at the cursor of a token loop in progress. -/
def State.withFetchWord (s : State) (nbits w : Nat) : State :=
  match decodeTableWord nbits w with
  | some .litTok => s.withToken (tokenTableBits s.par nbits w)
  | some .matchTok => s.withToken (tokenTableBits s.par nbits w)
  | _ => s.withCommand w

end Sys2Proof.Machine
end

