-- ==== Sys2Proof/Safety.lean ====
section
/-! DEFINITION. The terms the claims are stated in: the invariant of the machine's state, what an operation leaves
unchanged, the wire formats as functions of abstract tables and token lists (R102 to R106, R190, R211), the expansion of
a token list (R210), and the table of which operation can raise which error kind (R278). -/

namespace Sys2Proof.Machine

/-! ## The invariant -/

/-- Every register fits its width (R31); the working state fits too (R36, R52). -/
def State.Fits (s : State) : Prop :=
  s.pos < 2 ^ s.par.curw ∧ s.inlen < 2 ^ s.par.curw ∧ s.nbits < 2 ^ s.par.curw ∧ s.val < 2 ^ s.par.valw ∧
    s.olen < 2 ^ s.par.curw ∧ s.outlen < 2 ^ s.par.curw ∧ s.ntok < 2 ^ s.par.curw ∧ s.cur < 2 ^ s.par.curw ∧
    s.tokLeft < 2 ^ s.par.valw

/-- Every memory is in its canonical form, its indices below its capacity (R40); no FREQ cell is listed with 0, and every
TOK cell fits its width (R44); the count of the host's writes to CT is in canonical form too. -/
def State.MemWf (s : State) : Prop :=
  s.ibuf.wf s.par.inMax = true ∧ s.obuf.wf s.par.obMax = true ∧ s.out.wf s.par.outMax = true ∧
    s.tok.wf s.par.tokMax = true ∧ s.freq.wf Config.nsym = true ∧ s.ct.wf Config.nsym = true ∧
    (∀ c ∈ s.freq, c.2 ≠ 0) ∧ (∀ c ∈ s.tok, c.2 < 2 ^ s.par.tokw) ∧
    s.ctWrites.wf Config.nsym = true ∧ ∀ c ∈ s.ctWrites, c.2 ≠ 0

/-- The invariant: legal parameters (R8), ERR not 0 exactly when STATE is FAULT (R34), registers and memories within
their widths and capacities, no working state outside an operation (R30), and OUT never over capacity outside FAULT. -/
def State.Inv (s : State) : Prop :=
  s.par.wf = true ∧ (s.err ≠ .none ↔ s.status = .fault) ∧ s.Fits ∧ s.MemWf ∧
    (s.status ≠ .busy → s.cur = 0 ∧ s.tokLeft = 0) ∧ (s.status ≠ .fault → s.outlen ≤ s.par.outMax)

/-! ## What an operation leaves behind -/

/-- The operation ended successfully (R250): READY, no error, no working state. -/
def State.Done (t : State) : Prop := t.status = .ready ∧ t.err = .none ∧ t.cur = 0 ∧ t.tokLeft = 0

/-- The operation ended in FAULT with kind `k` (R281). -/
def State.Faulted (t : State) (k : ErrKind) : Prop := t.status = .fault ∧ t.err = k

/-- The parameters and the model's own fields are unchanged. -/
def SameOutside (s t : State) : Prop :=
  t.par = s.par ∧ t.script = s.script ∧ t.rdata = s.rdata ∧ t.epoch = s.epoch ∧ t.draws = s.draws

/-- CT is unchanged, what its invalid entries read as included. -/
def SameCt (s t : State) : Prop := t.ct = s.ct ∧ t.ctGen = s.ctGen ∧ t.ctWrites = s.ctWrites

/-- CT was made anew by an operation, once: what its invalid entries read as is free anew (V2). -/
def NewCt (s t : State) : Prop := t.ctGen = s.ctGen + 1 ∧ t.ctWrites = s.ctWrites

/-- The registers and memories no operation but RESET writes are unchanged (R31, R39): POS, INLEN, NTOK, IBUF, TOK, FREQ. -/
def SameInputs (s t : State) : Prop :=
  t.pos = s.pos ∧ t.inlen = s.inlen ∧ t.ntok = s.ntok ∧ t.ibuf = s.ibuf ∧ t.tok = s.tok ∧ t.freq = s.freq

/-- Exactly the bits `b` were appended to OBUF at OLEN (R37, R79): OLEN moved past them, and every other cell of OBUF
reads as before. -/
def AppendedBits (s t : State) (b : Bits) : Prop :=
  t.olen = s.olen + b.length ∧ (∀ i, i < b.length → Mem.read t.obuf (s.olen + i) = b[i]?) ∧
    ∀ a, a < s.olen ∨ s.olen + b.length ≤ a → Mem.read t.obuf a = Mem.read s.obuf a

/-- OUT holds exactly the symbols `l` from cell 0, OUTLEN is their number, and every cell from there on reads as before. -/
def OutputIs (s t : State) (l : List Sym) : Prop :=
  t.outlen = l.length ∧ (∀ i, i < l.length → Mem.read t.out i = l[i]?) ∧
    ∀ a, l.length ≤ a → Mem.read t.out a = Mem.read s.out a

/-- CT holds exactly the given entries (R46). -/
def TableIs (t : State) (es : List (Nat × Bits)) : Prop := ∀ k, t.ctEntry k = (tableLookup es k).map CtCell.ofCw

/-- The bits `b` stand in IBUF at index `p` and lie below INLEN. -/
abbrev State.IbufHolds (s : State) (p : Nat) (b : Bits) : Prop := s.inSeq p b.length = b ∧ p + b.length ≤ s.inlen

/-- The data below INLEN ends in `b`, which stands at index `p`; nothing of it is left when `p` is at or beyond INLEN (R35). -/
abbrev State.IbufEnds (s : State) (p : Nat) (b : Bits) : Prop :=
  s.inSeq p b.length = b ∧ (s.inlen = p + b.length ∨ (b = [] ∧ s.inlen ≤ p))

/-- Every register, table and status field has its reset value, and no cell of IBUF, OBUF, OUT or TOK holds a known
value (R54, R257, R300). -/
def State.Cleared (t : State) : Prop :=
  t.Done ∧ t.pos = 0 ∧ t.inlen = 0 ∧ t.nbits = 0 ∧ t.val = 0 ∧ t.olen = 0 ∧ t.outlen = 0 ∧ t.ntok = 0 ∧
    (∀ k, t.freqCell k = 0) ∧ (∀ k, t.ctEntry k = none) ∧ ∀ i, Mem.read t.ibuf i = none ∧ Mem.read t.obuf i = none ∧
      Mem.read t.out i = none ∧ Mem.read t.tok i = none

/-- The host action reads one register other than CMD or one memory cell. -/
def readsOne : HostAct → Bool
  | .rdReg r => decide (r ≠ .cmd)
  | .rdBit _ _ => true
  | .rdOut _ => true
  | .rdTok _ => true
  | .rdFreq _ => true
  | .rdCt _ => true
  | _ => false

/-- The read of the cell a host write names, and the value that read answers after it (R38, R44 to R46). -/
def readBack : HostAct → Option (HostAct × PortVal)
  | .wrBit m i b => some (.rdBit m i, .bit b)
  | .wrTok i c => some (.rdTok i, .tok c)
  | .wrFreq k v => some (.rdFreq k, .freq v)
  | .wrCt k true len bits => some (.rdCt k, .ct true len bits)
  | _ => none

/-! ## The wire formats -/

/-- `P(L)` of the closed form (R141), with fuel. -/
def eoPrefix : Nat → Nat → Bits
  | 0, _ => []
  | fuel + 1, l => if l = 0 then [] else eoPrefix fuel (bitlen l - 1) ++ (false :: (bin l).tail)

/-- The length groups of the code of n: all of the code but its value group (R101). -/
def lengthGroups (n : Nat) : Bits := (eoCode n).take (eoLen n - bitlen n)

/-- Format ENTRY (R103). -/
def entryBits (symMin : Nat) (e : Nat × Bits) : Bits :=
  binN Config.symw (symMin + e.1) ++ eoCode e.2.length ++ e.2

/-- Format HEADER for the given entries, in the given order (R102, R190). -/
def headerBits (symMin : Nat) (es : List (Nat × Bits)) : Bits :=
  eoCode es.length ++ es.flatMap (entryBits symMin)

/-- The tokens of a body one after the other (R211); none if a literal has no codeword. -/
def tokensBits (symMin : Nat) (table : List (Nat × Bits)) : List Token → Option Bits
  | [] => some []
  | t :: ts =>
    match encodeToken symMin table t, tokensBits symMin table ts with
    | some b, some bs => some (b ++ bs)
    | _, _ => none

/-- Format BODY (R104, R211). -/
def bodyBits (symMin : Nat) (table : List (Nat × Bits)) (ts : List Token) : Option Bits :=
  (tokensBits symMin table ts).map fun b => eoCode ts.length ++ b

/-- A table that has a form on the wire: entry numbers below NSYM, each once, codewords of 1 to CW_MAX bits (R103, R195). -/
abbrev TableWf (es : List (Nat × Bits)) : Prop :=
  es ≠ [] ∧ (es.map Prod.fst).Nodup ∧ ∀ e ∈ es, e.1 < Config.nsym ∧ 1 ≤ e.2.length ∧ e.2.length ≤ Config.cwMax

/-- No codeword is a prefix of another entry's codeword (R16). -/
abbrev PrefixFree (es : List (Nat × Bits)) : Prop :=
  ∀ a ∈ es, ∀ b ∈ es, a.1 ≠ b.1 → ¬ a.2 <+: b.2

/-! ## What is cut off (R274) -/

/-- `b` is `c` cut off: `c` begins with `b` and goes on. -/
abbrev CutOff (b c : Bits) : Prop := b <+: c ∧ b.length < c.length

/-- `b` is a code cut off inside or before a group that the bound allows (R146, R274): a code within the bound cut off
anywhere, or any code, its value group over-long or not, cut off inside its length groups, none of them over-long. -/
def CutOffCode (maxGroup : Nat) (b : Bits) : Prop :=
  ∃ n, 1 ≤ n ∧ ((n < 2 ^ maxGroup ∧ CutOff b (eoCode n)) ∨ (bitlen (bitlen n - 1) ≤ maxGroup ∧ CutOff b (lengthGroups n)))

/-- `x` is a header entry cut off, after the entries `es` (R195, R271): short of its 7 symbol bits, whatever they begin; or,
after a new valid symbol, in its length's code; or in a codeword of a length the table holds. -/
def CutOffEntry (p : Params) (es : List (Nat × Bits)) (x : Bits) : Prop :=
  x.length < Config.symw ∨
    ∃ k y, k < Config.nsym ∧ k ∉ es.map Prod.fst ∧ x = binN Config.symw (p.symMin + k) ++ y ∧
      (CutOffCode p.eoMaxGroup y ∨ ∃ l z, 1 ≤ l ∧ l ≤ Config.cwMax ∧ z.length < l ∧ y = eoCode l ++ z)

/-- `x` is a token cut off (R218, R220, R222, R272): no flag is left; or a literal of whose bits no codeword is there; or a
match cut off in its offset or in its length. -/
def CutOffToken (p : Params) (table : List (Nat × Bits)) (x : Bits) : Prop :=
  x = [] ∨ (∃ y, x = true :: y ∧ ∀ e ∈ table, ¬ e.2 <+: y) ∨ (∃ y, x = false :: y ∧ CutOffCode p.eoMaxGroup y) ∨
    ∃ o y, 1 ≤ o ∧ o < 2 ^ p.eoMaxGroup ∧ x = false :: (eoCode o ++ y) ∧ CutOffCode p.eoMaxGroup y

/-! ## The expansion of a token list (R210) -/

/-- Append `n` symbols, each the one `o` back from the end at that moment (R242). -/
def copySyms : Nat → Nat → List Sym → List Sym
  | 0, _, out => out
  | n + 1, o, out => copySyms n o (out ++ [out.getD (out.length - o) 0])

/-- Expand tokens after the output `out`; none if a match points before the start of the output (R210). -/
def expandFrom : List Sym → List Token → Option (List Sym)
  | out, [] => some out
  | out, .lit s :: ts => expandFrom (out ++ [s]) ts
  | out, .mtch o l :: ts => if o = 0 ∨ o > out.length then none else expandFrom (copySyms l o out) ts

/-- The expansion of a token list: the symbol sequence the decoder builds from it (R210). -/
def expand (ts : List Token) : Option (List Sym) := expandFrom [] ts

/-- The token list TOK[0..NTOK) (R44). -/
def State.tokens (s : State) : List Token := (List.range s.ntok).map s.tokAt

/-! ## How many bits an ENCODE can take -/

/-- No token takes more bits than this: a literal a flag and a codeword of CW_MAX bits (R105), a match its flag and its
two codes (R106). -/
def tokenBound : Token → Nat
  | .lit _ => 1 + Config.cwMax
  | .mtch o l => 1 + eoLen o + eoLen l

/-- The longest header (R192), the token count and the tokens. -/
def State.encodeBound (s : State) : Nat := 10843 + eoLen s.ntok + (s.tokens.map tokenBound).sum

/-! ## The selection rule of R174 -/

/-- A node in the priority queue, with its sequence number. -/
abbrev QNode := Nat × Node

/-- `a` is taken before `b`: lower frequency, or equal frequency and higher sequence number (R174). -/
def QNode.before (a b : QNode) : Bool :=
  decide (a.2.freq < b.2.freq) || (decide (a.2.freq = b.2.freq) && decide (b.1 < a.1))

/-- Take from the queue the node that comes before all others; the rest keeps its order. -/
def qPop : List QNode → Option (QNode × List QNode)
  | [] => none
  | x :: xs =>
    match qPop xs with
    | none => some (x, [])
    | some (m, rest) => if QNode.before x m then some (x, m :: rest) else some (m, x :: rest)

/-- The tree built with the priority queue of R174; `seq` is the next sequence number. -/
def queueTree : Nat → Nat → List QNode → Option Node
  | 0, _, q => (q.head?).map Prod.snd
  | fuel + 1, seq, q =>
    match qPop q with
    | none => none
    | some (a, q1) =>
      match qPop q1 with
      | none => some a.2
      | some (b, q2) => queueTree fuel (seq + 1) (q2 ++ [(seq, .internal a.2 b.2 (a.2.freq + b.2.freq))])

/-! ## What an operation reads and writes (R39) -/

/-- Two blocks agree on what the table of R39 marks as read by the operation: of IBUF the bits below INLEN, of TOK the
tokens below NTOK, of CT the valid entries with their codewords. -/
def SameRead (i : Instr) (s s' : State) : Prop :=
  s.par = s'.par ∧
    (i ∈ [Instr.eoDec, .hdrDes, .tokDes, .decode] →
      s.pos = s'.pos ∧ s.inlen = s'.inlen ∧ ∀ a, a < s.inlen → s.inBit a = s'.inBit a) ∧
    (i = .eoEnc → s.val = s'.val) ∧
    (i ∈ [Instr.eoEnc, .hdrSer, .tokSer, .encode] → s.olen = s'.olen) ∧
    (i ∈ [Instr.tokSer, .encode] → s.ntok = s'.ntok ∧ s.tokens = s'.tokens) ∧
    (i ∈ [Instr.hufBuild, .encode] → ∀ k, k < Config.nsym → s.freqCell k = s'.freqCell k) ∧
    (i ∈ [Instr.hdrSer, .tokSer, .tokDes] → s.ctTable = s'.ctTable)

/-- Two completed runs of the operation, from blocks that agree on `olen`, wrote the same: what the table of R39 marks as
written or appended to. -/
def SameWritten (i : Instr) (olen : Nat) (t t' : State) : Prop :=
  (i ∈ [Instr.eoDec, .hdrDes, .tokDes, .decode] → t.nbits = t'.nbits) ∧
    (i = .eoDec → t.val = t'.val) ∧
    (i ∈ [Instr.eoEnc, .hdrSer, .tokSer, .encode] →
      t.olen = t'.olen ∧ ∀ a, olen ≤ a → a < t.olen → Mem.read t.obuf a = Mem.read t'.obuf a) ∧
    (i ∈ [Instr.tokDes, .decode] → t.outlen = t'.outlen ∧ ∀ a, a < t.outlen → t.outCell a = t'.outCell a) ∧
    (i ∈ [Instr.hufBuild, .hdrDes, .encode, .decode] → t.ct = t'.ct)

/-! ## Which operation can raise which kind -/

/-- The table of R278; the rows of the tokens are the faults of R220 and R222. -/
def mayRaise : Instr → ErrKind → Bool
  | _, .none => false
  | .eoEnc, k => k = .invalidInput || k = .capacityExceeded || k = .illegalCommand
  | .eoDec, k => k = .malformedToken || k = .boundsExceeded || k = .illegalCommand
  | .hufBuild, k => k = .invalidInput
  | .hdrSer, k => k = .invalidInput || k = .capacityExceeded || k = .illegalCommand
  | .hdrDes, k => k = .malformedHeader || k = .boundsExceeded || k = .capacityExceeded || k = .illegalCommand
  | .tokSer, k => k = .invalidInput || k = .capacityExceeded || k = .illegalCommand
  | .tokDes, k => k = .malformedToken || k = .boundsExceeded || k = .capacityExceeded || k = .illegalCommand
  | .encode, k => k = .invalidInput || k = .capacityExceeded || k = .illegalCommand
  | .decode, k => k ≠ .invalidInput
  | .reset, _ => false
  | .litTok, k => k = .malformedToken || k = .capacityExceeded
  | .matchTok, k => k = .malformedToken || k = .boundsExceeded || k = .capacityExceeded

end Sys2Proof.Machine
end

