-- ==== Sys2Proof/Certificates/Slice0/Obligations.lean ====
section
/-! DEFINITION. The statements for the provers, each about the machine and none about a program. Every statement about
what an instruction does says when it completes, what it computes, and what it leaves unchanged. -/

open Sys2Proof Sys2Proof.Machine

/-! ## Reset, the invariant, decoding, the step -/

/-- R54: the state after reset. -/
def Obligations.ResetStateIsCleared : Prop := State.reset.Cleared ∧ State.reset.script = []

/-- The invariant holds right after reset. -/
def Obligations.InvariantHoldsAtReset : Prop := State.reset.Inv

/-- Every step that answers a next state keeps the invariant, and keeps the parameters. -/
def Obligations.EveryStepKeepsTheInvariant : Prop :=
  ∀ s t : State, s.Inv → step s = .next t → t.Inv ∧ t.par = s.par

/-- Decoding the word of an instruction gives the instruction back, and every word that decodes is the word of the
instruction it decodes to. -/
def Obligations.InstructionWordsDecodeToTheirInstruction : Prop :=
  (∀ i, decodeWord (encodeInstr i) = .ok i) ∧ ∀ w i, decodeWord w = .ok i → encodeInstr i = w

/-- R120: the command words of the table, written out bit by bit, and the two flags (R130). -/
def Obligations.WrittenOutWordsDecode : Prop :=
  decodeWord (.command 0b00000001#8) = .ok .eoEnc ∧ decodeWord (.command 0b00000010#8) = .ok .eoDec ∧
    decodeWord (.command 0b00000011#8) = .ok .hufBuild ∧ decodeWord (.command 0b00000100#8) = .ok .hdrSer ∧
    decodeWord (.command 0b00000101#8) = .ok .hdrDes ∧ decodeWord (.command 0b00000110#8) = .ok .tokSer ∧
    decodeWord (.command 0b00000111#8) = .ok .tokDes ∧ decodeWord (.command 0b00001000#8) = .ok .encode ∧
    decodeWord (.command 0b00001001#8) = .ok .decode ∧ decodeWord (.command 0b00001111#8) = .ok .reset ∧
    decodeWord (.token true) = .ok .litTok ∧ decodeWord (.token false) = .ok .matchTok

/-- R250, R134: a reserved command word written in READY raises IllegalCommand and runs nothing; in FAULT it is ignored. -/
def Obligations.ReservedCommandWordsRaiseIllegalCommand : Prop :=
  ∀ (s : State) (w : Nat) (rest : List HostAct), w < 256 → s.script = .wrReg .cmd w :: rest →
    (w / 16 ≠ 0 ∨ w % 16 = 0 ∨ (10 ≤ w % 16 ∧ w % 16 ≤ 14)) →
    (s.status = .ready → ∃ t, step s = .next t ∧ t.Faulted .illegalCommand ∧ t.script = rest) ∧
      (s.status = .fault → step s = .next (s.setScript rest))

/-- A step whose next host action writes a command word runs the instruction the word decodes to, and nothing else. -/
def Obligations.StepRunsTheCommandWritten : Prop :=
  ∀ (s : State) (w : Nat) (rest : List HostAct) (i : Instr), s.status ≠ .busy → w < 256 →
    s.script = .wrReg .cmd w :: rest → decodeWord (.command (BitVec.ofNat 8 w)) = .ok i →
    step s = exec i (s.setScript rest)

/-- Inside a token loop a step runs the token whose flag stands at the cursor, from the bit after the flag; afterwards
one token fewer is left, and after the last one NBITS is written and the operation completes. -/
def Obligations.StepRunsTheTokenAtTheCursor : Prop :=
  ∀ (s : State) (i : Instr), s.status = .busy → (∀ rest, s.script ≠ .hwReset :: rest) → 0 < s.tokLeft →
    s.cur + 1 ≤ s.inlen → decodeWord (.token (s.inBit s.cur)) = .ok i →
    ∃ u, exec i (s.setCur (s.cur + 1)) = .next u ∧
      (u.status = .fault → step s = .next u) ∧
      (u.status = .busy → 2 ≤ u.tokLeft → step s = .next (u.setTokLeft (u.tokLeft - 1))) ∧
      (u.status = .busy → u.tokLeft ≤ 1 → step s = .next ((u.setNbits (u.cur - u.pos)).complete))

/-- R301: with no host action pending nothing runs. -/
def Obligations.BlockWaitsWithoutHostAction : Prop :=
  ∀ s : State, s.status ≠ .busy → s.script = [] → step s = .next s

/-! ## Reset and FAULT -/

/-- R257, R300: the RESET command in READY or FAULT and the reset input in any state put every piece of state to its
reset value; the parameters and the host's side stay. -/
def Obligations.ResetCommandAndResetInputClearTheBlock : Prop :=
  (∀ s : State, s.status ≠ .busy →
    ∃ t, exec .reset s = .next t ∧ t.Cleared ∧ t.par = s.par ∧ t.script = s.script ∧ t.rdata = s.rdata ∧
      t.epoch = s.epoch + 1) ∧
  ∀ (s : State) (rest : List HostAct), s.script = .hwReset :: rest →
    ∃ t, step s = .next t ∧ t.Cleared ∧ t.par = s.par ∧ t.script = rest ∧ t.rdata = s.rdata ∧ t.epoch = s.epoch + 1

/-- R251: in FAULT every command but RESET is ignored: nothing changes. -/
def Obligations.FaultIgnoresEveryCommandButReset : Prop :=
  ∀ (i : Instr) (s : State), s.status = .fault → i ≠ .reset → i ≠ .litTok → i ≠ .matchTok → exec i s = .next s

/-- R282: the only ways out of FAULT are the RESET command and the reset input; by any other step STATE and ERR stay. -/
def Obligations.OnlyResetLeavesFault : Prop :=
  ∀ s t : State, s.status = .fault → step s = .next t →
    (t.status = .fault ∧ t.err = s.err) ∨ (∃ rest, s.script = .hwReset :: rest) ∨
      ∃ rest, s.script = .wrReg .cmd 0x0F :: rest

/-- R38, R281: in FAULT, of the host actions that are no command and no reset, every write is ignored, whatever it names;
a read of STATUS and one of ERR are answered with the code they hold; the host may read those two only, and every other
read is refused (V4; that R38's unspecified answer is this refusal is log 17's reading). -/
def Obligations.FaultHostAccessChangesNothing : Prop :=
  ∀ (s : State) (a : HostAct) (rest : List HostAct), s.status = .fault → s.script = a :: rest → a ≠ .hwReset →
    (∀ w, a ≠ .wrReg .cmd w) →
    (a.reads = false → step s = .next (s.setScript rest)) ∧
      (a = .rdReg .status → step s = .next ((s.setScript rest).setRdata (.reg 3))) ∧
      (a = .rdReg .err → step s = .next ((s.setScript rest).setRdata (.reg (errCode s.err)))) ∧
      (a.reads = true → a ≠ .rdReg .status → a ≠ .rdReg .err → step s = .refused .hostReadInFault)

/-- R281: what a fault leaves behind holds no trace of the data: two runs that raise the same kind, whatever their
registers and memories held, end in the same state. -/
def Obligations.FaultLeavesNoTraceOfTheData : Prop :=
  ∀ (i j : Instr) (s s' t t' : State), s.status = .ready → s'.status = .ready → SameOutside s s' →
    exec i s = .next t → exec j s' = .next t' → t.status = .fault → t'.status = .fault → t.err = t'.err → t = t'

/-- R278: the kinds an operation can raise are exactly those of the table: none other is raised from READY, and each of
them is raised from some state that keeps the invariant; a reserved command word raises IllegalCommand. -/
def Obligations.OperationsRaiseExactlyTheirKinds : Prop :=
  (∀ (i : Instr) (s t : State), s.status = .ready → exec i s = .next t → t.status = .fault → mayRaise i t.err = true) ∧
  (∀ (i : Instr) (k : ErrKind), mayRaise i k = true →
    ∃ s t : State, s.Inv ∧ s.status = .ready ∧ exec i s = .next t ∧ t.Faulted k) ∧
  ∀ (s : State) (w : Nat) (rest : List HostAct), s.status = .ready → w < 256 → s.script = .wrReg .cmd w :: rest →
    (w / 16 ≠ 0 ∨ w % 16 = 0 ∨ (10 ≤ w % 16 ∧ w % 16 ≤ 14)) → ∃ t, step s = .next t ∧ t.Faulted .illegalCommand

/-- R250, R277: an operand register above its capacity, or a valid CT entry with LEN above CW_MAX, is IllegalCommand
for the operations that use it. -/
def Obligations.IllegalOperandsRaiseIllegalCommand : Prop :=
  ∀ (s : State) (i : Instr), s.status = .ready →
    ((i ∈ [Instr.eoDec, .hdrDes, .tokDes, .decode] ∧ s.par.inMax < s.inlen) ∨
      (i ∈ [Instr.eoEnc, .hdrSer, .tokSer, .encode] ∧ s.par.obMax < s.olen) ∨
      (i ∈ [Instr.tokSer, .encode] ∧ s.par.tokMax < s.ntok) ∨
      (i ∈ [Instr.hdrSer, .tokSer, .tokDes] ∧
        ∃ k e, k < Config.nsym ∧ s.ctEntry k = some e ∧ Config.cwMax < e.len.toNat)) →
    ∃ t, exec i s = .next t ∧ t.Faulted .illegalCommand

/-- R39: what each command writes. Outside FAULT every command but RESET leaves POS, INLEN, NTOK, IBUF, TOK and FREQ
alone, and of the other registers and memories those the table marks as untouched. -/
def Obligations.CommandsWriteOnlyWhatTheTableMarks : Prop :=
  ∀ (i : Instr) (s t : State), s.status = .ready → i ≠ .reset → exec i s = .next t → t.status = .ready →
    SameInputs s t ∧ SameOutside s t ∧
      (i ∈ [Instr.eoEnc, .hufBuild, .hdrSer, .tokSer, .encode] → t.nbits = s.nbits) ∧
      (i ≠ .eoDec → t.val = s.val) ∧
      (i ∈ [Instr.eoDec, .hufBuild, .hdrDes, .tokDes, .decode, .litTok, .matchTok] → t.olen = s.olen ∧ t.obuf = s.obuf) ∧
      (i ∈ [Instr.eoEnc, .eoDec, .hufBuild, .hdrSer, .hdrDes, .tokSer, .encode] → t.outlen = s.outlen ∧ t.out = s.out) ∧
      (i ∈ [Instr.eoEnc, .eoDec, .hdrSer, .tokSer, .tokDes, .litTok, .matchTok] → SameCt s t) ∧
      (i ∈ [Instr.hufBuild, .hdrDes, .encode, .decode] → NewCt s t)

/-! ## The host port -/

/-- R31, R38: in READY a write to POS, INLEN, VAL, OLEN or NTOK that fits changes that register and nothing else in the
block, and is what a following read answers; in READY and in FAULT a write to STATUS, ERR, NBITS, OUTLEN or OUT is
ignored. -/
def Obligations.HostReadsBackTheRegisterItWrote : Prop :=
  (∀ (s : State) (r : Reg) (v : Nat) (rest : List HostAct), s.status = .ready → v < 2 ^ r.width s.par →
    r ∈ [Reg.pos, .inlen, .val, .olen, .ntok] → s.script = .wrReg r v :: .rdReg r :: rest →
    ∃ t, step s = .next t ∧ step t = .next ((t.setScript rest).setRdata (.reg v)) ∧
      (r = .pos → t = { s with pos := v, script := .rdReg r :: rest }) ∧
      (r = .inlen → t = { s with inlen := v, script := .rdReg r :: rest }) ∧
      (r = .val → t = { s with val := v, script := .rdReg r :: rest }) ∧
      (r = .olen → t = { s with olen := v, script := .rdReg r :: rest }) ∧
      (r = .ntok → t = { s with ntok := v, script := .rdReg r :: rest })) ∧
  ∀ (s : State) (a : HostAct) (rest : List HostAct), s.status ≠ .busy → s.script = a :: rest →
    ((∃ r v, r ∈ [Reg.status, .err, .nbits, .outlen] ∧ a = .wrReg r v) ∨ ∃ i v, a = .wrOut i v) →
    step s = .next (s.setScript rest)

/-- R38, R44 to R46, R137: in READY a written cell of IBUF, OBUF, TOK, FREQ or CT (a valid entry) is what a following read
answers; every other cell of every memory and every register answers as before, and the working state and the
parameters are unchanged. A CT entry written with VALID = 0 reads as invalid, everything else as before. LOAD writes its
bits, given or from OBUF, to IBUF from cell 0 and sets nothing else. -/
def Obligations.HostReadsBackTheCellItWrote : Prop :=
  (∀ (s : State) (w r : HostAct) (v : PortVal) (rest : List HostAct), s.status = .ready → w.fits s.par = true →
    w.cellsExist s.par = true → readBack w = some (r, v) → s.script = w :: r :: rest →
    ∃ t, step s = .next t ∧ step t = .next ((t.setScript rest).setRdata v) ∧ t.script = r :: rest ∧
      (∀ r', readsOne r' = true → r' ≠ r → t.answer r' = s.answer r') ∧
      t.par = s.par ∧ t.status = s.status ∧ t.cur = s.cur ∧ t.tokLeft = s.tokLeft) ∧
  (∀ (s : State) (k : Nat) (len : BitVec 7) (bits : BitVec 94) (rest : List HostAct), s.status = .ready →
    k < Config.nsym → s.script = .wrCt k false len bits :: .rdCt k :: rest →
    ∃ t len' bits', step s = .next t ∧ step t = .next ((t.setScript rest).setRdata (.ct false len' bits')) ∧
      t.ctEntry k = none ∧ (∀ r', readsOne r' = true → r' ≠ .rdCt k → t.answer r' = s.answer r') ∧
      t = { s with ct := t.ct, ctWrites := t.ctWrites, script := .rdCt k :: rest }) ∧
  (∀ (s : State) (b : Bits) (rest : List HostAct), s.status = .ready → b.length ≤ s.par.inMax →
    s.script = .load b :: rest →
    ∃ t, step s = .next t ∧ t.inSeq 0 b.length = b ∧ (∀ a, b.length ≤ a → t.inBit a = s.inBit a) ∧
      t = { s with ibuf := t.ibuf, script := rest }) ∧
  ∀ (s : State) (n : Nat) (rest : List HostAct), s.status = .ready → n ≤ s.par.inMax → n ≤ s.par.obMax →
    s.script = .loadObuf n :: rest →
    ∃ t, step s = .next t ∧ (∀ a, a < n → t.inBit a = s.obufBit a) ∧ (∀ a, n ≤ a → t.inBit a = s.inBit a) ∧
      t = { s with ibuf := t.ibuf, script := rest }

/-- R38, R47: in READY a read answers what the register or cell holds and changes nothing in the block, so reading twice
answers the same value, an unspecified one included; only CMD, whose reads are not defined (R31), is left out. (That the
last byte of a bit memory may be read where only some of its bits have a cell, and answers free values for the others, is
the model's choice, log 10.) -/
def Obligations.ReadingTwiceAnswersTheSame : Prop :=
  ∀ (s : State) (r : HostAct) (rest : List HostAct), s.status = .ready → r.cellsExist s.par = true → r ≠ .rdReg .cmd →
    (s.answer r).isSome = true → s.script = r :: r :: rest →
    ∃ v, step s = .next ((s.setScript (r :: rest)).setRdata v) ∧
      step ((s.setScript (r :: rest)).setRdata v) = .next ((s.setScript rest).setRdata v) ∧
      (r = .rdReg .status → v = .reg 0) ∧ (r = .rdReg .err → v = .reg (errCode s.err)) ∧
      (r = .rdReg .pos → v = .reg s.pos) ∧ (r = .rdReg .inlen → v = .reg s.inlen) ∧
      (r = .rdReg .nbits → v = .reg s.nbits) ∧ (r = .rdReg .val → v = .reg s.val) ∧
      (r = .rdReg .olen → v = .reg s.olen) ∧ (r = .rdReg .outlen → v = .reg s.outlen) ∧
      (r = .rdReg .ntok → v = .reg s.ntok) ∧
      (∀ i, r = .rdBit .ibuf i → v = .bit (s.inBit i)) ∧ (∀ i, r = .rdBit .obuf i → v = .bit (s.obufBit i)) ∧
      (∀ i, r = .rdOut i → v = .sym (s.outCell i)) ∧ (∀ i, r = .rdTok i → v = .tok (s.tokCell i)) ∧
      (∀ k, r = .rdFreq k → v = .freq (s.freqCell k)) ∧
      (∀ k e, r = .rdCt k → s.ctEntry k = some e → v = .ct true e.len e.bits) ∧
      (∀ k, r = .rdCt k → s.ctEntry k = none → ∃ len bits, v = .ct false len bits) ∧
      (∀ m j n, r = .rdBytes m j n → ∃ bs : List Byte, v = .bytes bs ∧ bs.length = n ∧
        ∀ q b k, bs[q]? = some b → k < 8 → b.getLsbD (7 - k) = s.bitAt m (8 * (j + q) + k))

/-- R72: after the host writes bytes to IBUF or OBUF, sequence bit 8(j+q)+k, where the memory has it, is bit 7-k of the
q-th byte, and every other cell of that memory and the other memory are as before. (That the last byte may reach past
the last cell is the model's choice, log 10.) -/
def Obligations.PortBytesHoldTheEarlierBitHigher : Prop :=
  ∀ (s : State) (m : BitMem) (j : Nat) (bs : List Byte) (rest : List HostAct), s.status = .ready →
    j + bs.length ≤ m.bytes s.par → s.script = .wrBytes m j bs :: rest →
    ∃ t, step s = .next t ∧ t.script = rest ∧
      (∀ q k b, bs[q]? = some b → k < 8 → 8 * (j + q) + k < m.size s.par →
        t.bitAt m (8 * (j + q) + k) = b.getLsbD (7 - k)) ∧
      (∀ a, a < 8 * j ∨ 8 * (j + bs.length) ≤ a ∨ m.size s.par ≤ a → t.bitAt m a = s.bitAt m a) ∧
      (∀ m', m' ≠ m → ∀ a, t.bitAt m' a = s.bitAt m' a)

/-! ## Elias-omega -/

/-- R79, R144: the capacity is tested once for all the bits; either all of them are appended at OLEN, and nothing else
changes, or none is; the integer 0 has no code. -/
def Obligations.EmitAppendsAllBitsOrNone : Prop :=
  ∀ (s : State) (b : Bits) (n : Nat),
    (s.par.obMax < s.olen + b.length → emit s b = .error .capacityExceeded) ∧
    (s.olen + b.length ≤ s.par.obMax →
      ∃ t, emit s b = .ok t ∧ AppendedBits s t b ∧ { t with olen := s.olen, obuf := s.obuf } = s) ∧
    (s.olen ≤ s.par.obMax → emit s [] = .ok s) ∧
    eoEmit s 0 = .error .invalidInput ∧ (n ≠ 0 → eoEmit s n = emit s (eoCode n))

/-- R141, which the spec marks as its own inference from R140: the closed form of the code, and the recursion of its
length. -/
def Obligations.EliasOmegaClosedForm : Prop :=
  ∀ n, 1 ≤ n → eoCode n = eoPrefix n (bitlen n - 1) ++ bin n ∧
    eoLen n = bitlen n + (if bitlen n = 1 then 0 else eoLen (bitlen n - 1))

/-- R149: encode and decode are exact inverses within the bounded group length, from any bit source; a longer integer's
code gives BoundsExceeded. -/
def Obligations.EliasOmegaRoundTrip : Prop :=
  ∀ (maxGroup : Nat) (bit : Nat → Bool) (len p : Nat), 7 ≤ maxGroup →
    (∀ n, 1 ≤ n → n < 2 ^ maxGroup → inSeq bit p (eoLen n) = eoCode n → p + eoLen n ≤ len →
      eoDecode maxGroup bit len p = .value n (eoLen n)) ∧
    (∀ n k, eoDecode maxGroup bit len p = .value n k → inSeq bit p k = eoCode n) ∧
    ∀ n, 2 ^ maxGroup ≤ n → inSeq bit p (eoLen n) = eoCode n → p + eoLen n ≤ len →
      eoDecode maxGroup bit len p = .boundsExceeded

/-- R132: no code is a proper prefix of another, so no integer has two codes and no bit string two readings. -/
def Obligations.EliasOmegaCodesArePrefixFree : Prop :=
  ∀ m n, 1 ≤ m → 1 ≤ n → eoCode m <+: eoCode n → m = n

/-- R150: with EO_MAX_GROUP = 100 no accepted code is longer than 113 bits, and what is read lies below the length. -/
def Obligations.AcceptedCodesAreAtMost113Bits : Prop :=
  ∀ (bit : Nat → Bool) (len p n k : Nat), eoDecode 100 bit len p = .value n k →
    1 ≤ n ∧ n < 2 ^ 100 ∧ 1 ≤ k ∧ k ≤ 113 ∧ p + k ≤ len

/-- R143: EO_ENC appends the code of VAL, completing exactly when VAL is not 0 and the code fits; a VAL of 0 is
InvalidInput, tested before the capacity. -/
def Obligations.EoEncAppendsTheCodeOfVal : Prop :=
  ∀ s : State, s.status = .ready → s.olen ≤ s.par.obMax →
    (s.val ≠ 0 → s.olen + eoLen s.val ≤ s.par.obMax →
      ∃ t, exec .eoEnc s = .next t ∧ t.Done ∧ AppendedBits s t (eoCode s.val) ∧ SameInputs s t ∧ SameOutside s t ∧
        t.nbits = s.nbits ∧ t.val = s.val ∧ t.outlen = s.outlen ∧ t.out = s.out ∧ SameCt s t) ∧
    (s.val = 0 → ∃ t, exec .eoEnc s = .next t ∧ t.Faulted .invalidInput) ∧
    (s.val ≠ 0 → s.par.obMax < s.olen + eoLen s.val → ∃ t, exec .eoEnc s = .next t ∧ t.Faulted .capacityExceeded)

/-- R148: EO_DEC reads the code that stands at POS into VAL and its length into NBITS; everything else is unchanged. -/
def Obligations.EoDecReadsTheCodeAtPos : Prop :=
  ∀ (s : State) (n : Nat), s.status = .ready → s.par.wf = true → s.inlen ≤ s.par.inMax → 1 ≤ n → n < 2 ^ s.par.valw →
    s.IbufHolds s.pos (eoCode n) →
    ∃ t, exec .eoDec s = .next t ∧ t.Done ∧ t.val = n ∧ t.nbits = eoLen n ∧ SameInputs s t ∧ SameOutside s t ∧
      t.olen = s.olen ∧ t.obuf = s.obuf ∧ t.outlen = s.outlen ∧ t.out = s.out ∧ SameCt s t

/-- R148, R274, R275: EO_DEC on a code cut off by INLEN, POS at or beyond INLEN included, is MalformedToken, also inside the
length groups of a code whose value group would be over-long; on the length groups of a code whose value group is longer
than EO_MAX_GROUP it is BoundsExceeded, whatever follows them. -/
def Obligations.EoDecFaultsOnCutOffAndOverlongCodes : Prop :=
  ∀ s : State, s.status = .ready → s.par.wf = true → s.inlen ≤ s.par.inMax →
    (∀ b, CutOffCode s.par.eoMaxGroup b → s.IbufEnds s.pos b →
      ∃ t, exec .eoDec s = .next t ∧ t.Faulted .malformedToken) ∧
    ∀ n, 2 ^ s.par.eoMaxGroup ≤ n → s.IbufHolds s.pos (lengthGroups n) →
      ∃ t, exec .eoDec s = .next t ∧ t.Faulted .boundsExceeded

/-! ## The Huffman table builder -/

/-- R172: the sort of `BuildTree` is a stable descending sort: a rearrangement, highest frequency first, in which the
nodes of each frequency keep their order. -/
def Obligations.TreeSortIsStableDescending : Prop :=
  ∀ w : List Node, (stableSortDescending w).Perm w ∧
    (stableSortDescending w).Pairwise (fun a b => b.freq ≤ a.freq) ∧
    ∀ f, (stableSortDescending w).filter (fun x => x.freq = f) = w.filter (fun x => x.freq = f)

/-- R172, R174: one round takes two nodes of least frequency, among equals the ones that stand last, labels the first
taken 0 and the second 1, and puts their parent at the end; the others keep their order within each frequency. -/
def Obligations.EachMergeTakesTheTwoLeastLatestNodes : Prop :=
  ∀ w : List Node, 2 ≤ w.length → ∃ a b rest,
    mergeStep w = rest ++ [.internal a b (a.freq + b.freq)] ∧ (rest ++ [b, a]).Perm w ∧ a.freq ≤ b.freq ∧
      (∀ x ∈ rest, b.freq ≤ x.freq) ∧
      ∀ f, (rest ++ [b, a]).filter (fun x => x.freq = f) = w.filter (fun x => x.freq = f)

/-- R174: a priority queue keyed by frequency ascending and sequence number descending builds the same tree. -/
def Obligations.PriorityQueueBuildsTheSameTree : Prop :=
  ∀ w : List Node,
    buildTree w.length w = queueTree w.length w.length (w.zipIdx.map fun x => (x.2, x.1))

/-- R173, R176: HUF_BUILD completes when some count is not 0; CT then holds exactly the leaves of the tree with their
path labels, one entry for each symbol whose count is not 0; everything else is unchanged. With every count 0 it is
InvalidInput. -/
def Obligations.HufBuildWritesTheTreesCodewords : Prop :=
  (∀ s : State, s.status = .ready → (∃ k, k < Config.nsym ∧ s.freqCell k ≠ 0) →
    ∃ t root, exec .hufBuild s = .next t ∧ t.Done ∧
      buildTree (initialLeaves s).length (initialLeaves s) = some root ∧ TableIs t (root.assign []) ∧
      ((root.assign []).map Prod.fst).Nodup ∧
      (∀ k, (t.ctEntry k).isSome = true ↔ k < Config.nsym ∧ s.freqCell k ≠ 0) ∧
      SameInputs s t ∧ SameOutside s t ∧ NewCt s t ∧ t.nbits = s.nbits ∧ t.val = s.val ∧ t.olen = s.olen ∧
      t.obuf = s.obuf ∧ t.outlen = s.outlen ∧ t.out = s.out) ∧
  ∀ s : State, s.status = .ready → (∀ k, k < Config.nsym → s.freqCell k = 0) →
    ∃ t, exec .hufBuild s = .next t ∧ t.Faulted .invalidInput

/-- R177: the table HUF_BUILD leaves is prefix-free, no codeword is longer than CW_MAX, and with two or more symbols
every codeword has at least one bit and the table is complete (the sum of 2^-LEN is 1). -/
def Obligations.HufBuildTableIsPrefixFreeAndComplete : Prop :=
  ∀ s t : State, s.status = .ready → exec .hufBuild s = .next t → t.status = .ready →
    PrefixFree t.ctTable ∧ (∀ e ∈ t.ctTable, e.2.length ≤ Config.cwMax) ∧
      (t.ctTable.map fun e => 2 ^ (Config.cwMax - e.2.length)).sum = 2 ^ Config.cwMax ∧
      (2 ≤ t.ctTable.length → ∀ e ∈ t.ctTable, 1 ≤ e.2.length)

/-- R173, R178: one symbol alone gets the empty codeword, and HDR_SER then refuses the table. -/
def Obligations.SingleSymbolGetsTheEmptyCodeword : Prop :=
  ∀ (s : State) (k : Nat), s.status = .ready → k < Config.nsym → s.freqCell k ≠ 0 →
    (∀ j, j < Config.nsym → j ≠ k → s.freqCell j = 0) → s.olen + 8 ≤ s.par.obMax →
    ∃ t u, exec .hufBuild s = .next t ∧ t.Done ∧ t.ctTable = [(k, [])] ∧
      exec .hdrSer t = .next u ∧ u.Faulted .invalidInput

/-- R46: a codeword of at most CW_MAX bits is what the entry that stores it reads as; its bits beyond LEN are 0. -/
def Obligations.CodewordSurvivesItsTableEntry : Prop :=
  ∀ cw : Bits, cw.length ≤ Config.cwMax →
    (CtCell.ofCw cw).cw = cw ∧ (CtCell.ofCw cw).len.toNat = cw.length ∧
      ∀ j, cw.length ≤ j → (CtCell.ofCw cw).bits.getMsbD j = false

/-! ## The header -/

/-- R190, R191: HDR_SER appends the header of CT, its entries in ascending code point; it completes for every table
without an empty codeword that fits, and is CapacityExceeded where the header does not fit (R79). -/
def Obligations.HdrSerAppendsTheHeader : Prop :=
  ∀ s : State, s.status = .ready → s.ctLegal = true → s.ctTable ≠ [] → (∀ e ∈ s.ctTable, 1 ≤ e.2.length) →
    (s.olen + (headerBits s.par.symMin s.ctTable).length ≤ s.par.obMax →
      ∃ t, exec .hdrSer s = .next t ∧ t.Done ∧ AppendedBits s t (headerBits s.par.symMin s.ctTable) ∧
        SameInputs s t ∧ SameOutside s t ∧ t.nbits = s.nbits ∧ t.val = s.val ∧ t.outlen = s.outlen ∧ t.out = s.out ∧
        SameCt s t) ∧
    (s.olen ≤ s.par.obMax → s.par.obMax < s.olen + (headerBits s.par.symMin s.ctTable).length →
      ∃ t, exec .hdrSer s = .next t ∧ t.Faulted .capacityExceeded)

/-- R191: HDR_SER never succeeds on a table with no entry or with an empty codeword: the empty table is InvalidInput; at
the first empty codeword it is InvalidInput where the count, the entries before it and its own 7 symbol bits fit, and
CapacityExceeded where they do not. -/
def Obligations.HdrSerRefusesEmptyTablesAndCodewords : Prop :=
  ∀ s : State, s.status = .ready → s.olen ≤ s.par.obMax → s.ctLegal = true →
    (s.ctTable = [] → ∃ t, exec .hdrSer s = .next t ∧ t.Faulted .invalidInput) ∧
    ∀ (before rest : List (Nat × Bits)) (k : Nat), s.ctTable = before ++ (k, []) :: rest → (∀ e ∈ before, e.2 ≠ []) →
      ∃ t, exec .hdrSer s = .next t ∧
        t.Faulted (if s.olen + eoLen s.ctTable.length + (before.flatMap (entryBits s.par.symMin)).length + Config.symw
          ≤ s.par.obMax then .invalidInput else .capacityExceeded)

/-- R192: no header HDR_SER accepts is longer than 10843 bits, and its length is the sum of its fields' lengths. -/
def Obligations.HeaderIsAtMost10843Bits : Prop :=
  ∀ (symMin : Nat) (es : List (Nat × Bits)), TableWf es →
    (headerBits symMin es).length = eoLen es.length + (es.map fun e => 7 + eoLen e.2.length + e.2.length).sum ∧
      (headerBits symMin es).length ≤ 10843

/-- R195: HDR_DES reads a header that stands at POS, its entries in any order, into CT; NBITS is its exact length in
bits, at any bit offset; everything else is unchanged. -/
def Obligations.HdrDesReadsTheHeaderAtPos : Prop :=
  ∀ (s : State) (es : List (Nat × Bits)), s.status = .ready → s.par.wf = true → s.inlen ≤ s.par.inMax → TableWf es →
    s.IbufHolds s.pos (headerBits s.par.symMin es) →
    ∃ t, exec .hdrDes s = .next t ∧ t.Done ∧ TableIs t es ∧ t.nbits = (headerBits s.par.symMin es).length ∧
      SameInputs s t ∧ SameOutside s t ∧ NewCt s t ∧ t.val = s.val ∧ t.olen = s.olen ∧ t.obuf = s.obuf ∧ t.outlen = s.outlen ∧
      t.out = s.out

/-- R195, R271, R274, R35: a header cut off by INLEN anywhere is MalformedHeader: in its count, POS at or beyond INLEN
included, or, whatever count is declared, after entries of distinct symbols in a further entry: in its symbol bits,
whatever they begin, in its length's code, or in its codeword. -/
def Obligations.HdrDesOfACutOffHeaderIsMalformedHeader : Prop :=
  ∀ s : State, s.status = .ready → s.par.wf = true → s.inlen ≤ s.par.inMax →
    (∀ b, CutOffCode s.par.eoMaxGroup b → s.IbufEnds s.pos b →
      ∃ t, exec .hdrDes s = .next t ∧ t.Faulted .malformedHeader) ∧
    ∀ (es : List (Nat × Bits)) (n : Nat) (x : Bits), (es ≠ [] → TableWf es) → es.length < n → n < 2 ^ s.par.valw →
      CutOffEntry s.par es x → s.IbufEnds s.pos (eoCode n ++ es.flatMap (entryBits s.par.symMin) ++ x) →
      ∃ t, exec .hdrDes s = .next t ∧ t.Faulted .malformedHeader

/-- R195, R271, R275, R276: an over-long group in the count is BoundsExceeded. After a count and entries of distinct
symbols, an entry whose 7-bit code lies outside the alphabet or repeats an earlier symbol is MalformedHeader; after a
new valid symbol, a length above CW_MAX is CapacityExceeded and an over-long group in it BoundsExceeded. Whatever
follows does not matter. -/
def Obligations.HdrDesFaultsOnABadEntry : Prop :=
  ∀ (s : State) (es : List (Nat × Bits)) (v n m : Nat), s.status = .ready → s.par.wf = true →
    s.inlen ≤ s.par.inMax → (es ≠ [] → TableWf es) → es.length < n → n < 2 ^ s.par.valw → v < 128 →
    (2 ^ s.par.eoMaxGroup ≤ m → s.IbufHolds s.pos (lengthGroups m) →
      ∃ t, exec .hdrDes s = .next t ∧ t.Faulted .boundsExceeded) ∧
    ((s.par.symOk v = false ∨ (s.par.symMin ≤ v ∧ v - s.par.symMin ∈ es.map Prod.fst)) →
      s.IbufHolds s.pos (eoCode n ++ es.flatMap (entryBits s.par.symMin) ++ binN 7 v) →
      ∃ t, exec .hdrDes s = .next t ∧ t.Faulted .malformedHeader) ∧
    (s.par.symOk v = true → v - s.par.symMin ∉ es.map Prod.fst → Config.cwMax < m → m < 2 ^ s.par.valw →
      s.IbufHolds s.pos (eoCode n ++ es.flatMap (entryBits s.par.symMin) ++ binN 7 v ++ eoCode m) →
      ∃ t, exec .hdrDes s = .next t ∧ t.Faulted .capacityExceeded) ∧
    (s.par.symOk v = true → v - s.par.symMin ∉ es.map Prod.fst → 2 ^ s.par.eoMaxGroup ≤ m →
      s.IbufHolds s.pos (eoCode n ++ es.flatMap (entryBits s.par.symMin) ++ binN 7 v ++ lengthGroups m) →
      ∃ t, exec .hdrDes s = .next t ∧ t.Faulted .boundsExceeded)

/-- R196: table recovery. What HDR_SER wrote from OLEN = 0, placed in IBUF at bit POS of any block with the same group
bound and symbol range, gives the same table back, and NBITS is the OLEN that HDR_SER left. -/
def Obligations.HeaderRoundTripRecoversTheTable : Prop :=
  ∀ s t s' : State, s.status = .ready → s.par.wf = true → s.olen = 0 → exec .hdrSer s = .next t → t.status = .ready →
    s'.status = .ready → s'.par.wf = true → s'.par.symMin = s.par.symMin → s'.inlen ≤ s'.par.inMax →
    s'.pos + t.olen ≤ s'.inlen → (∀ i, i < t.olen → s'.inBit (s'.pos + i) = t.obufBit i) →
    ∃ u, exec .hdrDes s' = .next u ∧ u.Done ∧ u.ctTable = s.ctTable ∧ u.nbits = t.olen

/-! ## The token stream -/

/-- R44: the cell of a token reads back as the token, and of a literal cell only KIND and bits [6:0] count. -/
def Obligations.TokenCellReadsBackAsItsToken : Prop :=
  (∀ (p : Params) (t : Token), p.wf = true → t.wf p = true →
    Token.ofCell p.valw (t.toCell p.valw) = t ∧ t.toCell p.valw < 2 ^ p.tokw) ∧
  ∀ (p : Params) (c c' : Nat), p.wf = true → c.testBit (2 * p.valw) = true → c'.testBit (2 * p.valw) = true →
    c % 128 = c' % 128 → Token.ofCell p.valw c = Token.ofCell p.valw c'

/-- R105, R106, R115: reading a token from the bits its encoding gives answers the token and its exact length, for
every token that has an encoding under a prefix-free table, whatever bits follow. -/
def Obligations.TokenDecodingInvertsEncoding : Prop :=
  ∀ (p : Params) (table : List (Nat × Bits)) (t : Token) (b : Bits) (bit : Nat → Bool) (len q : Nat),
    p.wf = true → (table.map Prod.fst).Nodup → PrefixFree table → t.wf p = true →
    encodeToken p.symMin table t = some b → inSeq bit q b.length = b → q + b.length ≤ len →
    decodeToken p.eoMaxGroup p.symMin table bit len q = .ok (t, b.length)

/-- R211, R212: TOK_SER appends the body for TOK[0..NTOK) when every token has an encoding (its literal a codeword, its
match an offset within what is produced so far) and the body fits; everything else is unchanged. Where the body does
not fit it is CapacityExceeded (R79). -/
def Obligations.TokSerAppendsTheBody : Prop :=
  ∀ (s : State) (b : Bits), s.status = .ready → s.ntok ≤ s.par.tokMax → s.ctLegal = true → 1 ≤ s.ntok →
    (∀ t ∈ s.tokens, t.wf s.par = true) → (expand s.tokens).isSome = true →
    bodyBits s.par.symMin s.ctTable s.tokens = some b →
    (s.olen + b.length ≤ s.par.obMax →
      ∃ t, exec .tokSer s = .next t ∧ t.Done ∧ AppendedBits s t b ∧ SameInputs s t ∧ SameOutside s t ∧
        t.nbits = s.nbits ∧ t.val = s.val ∧ t.outlen = s.outlen ∧ t.out = s.out ∧ SameCt s t) ∧
    (s.olen ≤ s.par.obMax → s.par.obMax < s.olen + b.length →
      ∃ t, exec .tokSer s = .next t ∧ t.Faulted .capacityExceeded)

/-- R212 to R214, R273: TOK_SER never succeeds on a token list that has no encoding: no token is InvalidInput; at the
first token that has none (a literal outside the alphabet or without a codeword, a match with offset or length 0 or an
offset beyond what is produced so far) it is InvalidInput where the count and the tokens before it fit, and
CapacityExceeded where they do not. -/
def Obligations.TokSerRefusesUnencodableTokens : Prop :=
  ∀ s : State, s.status = .ready → s.olen ≤ s.par.obMax → s.ntok ≤ s.par.tokMax → s.ctLegal = true →
    (s.ntok = 0 → ∃ t, exec .tokSer s = .next t ∧ t.Faulted .invalidInput) ∧
    ∀ (before rest : List Token) (bad : Token) (b : Bits), s.tokens = before ++ bad :: rest →
      (∀ t ∈ before, t.wf s.par = true) → (expand before).isSome = true →
      tokensBits s.par.symMin s.ctTable before = some b →
      (bad.wf s.par = false ∨ encodeToken s.par.symMin s.ctTable bad = none ∨ expand (before ++ [bad]) = none) →
      ∃ t, exec .tokSer s = .next t ∧
        t.Faulted (if s.olen + eoLen s.ntok + b.length ≤ s.par.obMax then .invalidInput else .capacityExceeded)

/-- R210, R218: TOK_DES decodes the body that stands at POS: OUT becomes the expansion of its tokens, from cell 0,
NBITS the body's exact length; everything else is unchanged. -/
def Obligations.TokDesOutputsTheExpansion : Prop :=
  ∀ (s : State) (ts : List Token) (b : Bits) (syms : List Sym), s.status = .ready → s.par.wf = true →
    s.inlen ≤ s.par.inMax → s.ctLegal = true → PrefixFree s.ctTable → ts ≠ [] → ts.length < 2 ^ s.par.valw →
    (∀ t ∈ ts, t.wf s.par = true) → bodyBits s.par.symMin s.ctTable ts = some b → s.IbufHolds s.pos b →
    expand ts = some syms → syms.length ≤ s.par.outMax →
    ∃ t, exec .tokDes s = .next t ∧ t.Done ∧ OutputIs s t syms ∧ t.nbits = b.length ∧ SameInputs s t ∧
      SameOutside s t ∧ t.val = s.val ∧ t.olen = s.olen ∧ t.obuf = s.obuf ∧ SameCt s t

/-- R218, R272, R274, R275: TOK_DES of a body cut off by INLEN anywhere is MalformedToken: in its count, POS at or beyond
INLEN included, or, under a prefix-free table and whatever count is declared, after any tokens that decode, at a flag, in
a literal, in an offset or in a length. An over-long group in the count is BoundsExceeded, and so is one in the offset or
the length of a match, after any tokens that decode. -/
def Obligations.TokDesFaultsOnCutOffAndOverlongBodies : Prop :=
  ∀ s : State, s.status = .ready → s.par.wf = true → s.inlen ≤ s.par.inMax → s.ctLegal = true →
    (∀ x, CutOffCode s.par.eoMaxGroup x → s.IbufEnds s.pos x →
      ∃ t, exec .tokDes s = .next t ∧ t.Faulted .malformedToken) ∧
    (∀ m, 2 ^ s.par.eoMaxGroup ≤ m → s.IbufHolds s.pos (lengthGroups m) →
      ∃ t, exec .tokDes s = .next t ∧ t.Faulted .boundsExceeded) ∧
    ∀ (ts : List Token) (syms : List Sym) (b : Bits) (n : Nat), PrefixFree s.ctTable →
      (∀ t ∈ ts, t.wf s.par = true) → expand ts = some syms → syms.length ≤ s.par.outMax →
      tokensBits s.par.symMin s.ctTable ts = some b → ts.length < n → n < 2 ^ s.par.valw →
      (∀ x, CutOffToken s.par s.ctTable x → s.IbufEnds s.pos (eoCode n ++ b ++ x) →
        ∃ t, exec .tokDes s = .next t ∧ t.Faulted .malformedToken) ∧
      ∀ m, 2 ^ s.par.eoMaxGroup ≤ m →
        (s.IbufHolds s.pos (eoCode n ++ b ++ false :: lengthGroups m) ∨
          ∃ o, 1 ≤ o ∧ o < 2 ^ s.par.valw ∧ s.IbufHolds s.pos (eoCode n ++ b ++ false :: (eoCode o ++ lengthGroups m))) →
        ∃ t, exec .tokDes s = .next t ∧ t.Faulted .boundsExceeded

/-- R17, R218: the atomic operation TOK_DES is the run of the token loop, one step a token: from the state inside the
loop, N steps of the machine end where the one step of the command ends, in success and in fault. -/
def Obligations.TokDesIsTheRunOfItsTokens : Prop :=
  ∀ (s : State) (n k : Nat), s.status = .ready → s.script = [] → s.inlen ≤ s.par.inMax → s.ctLegal = true →
    s.eoDecode s.pos = .value n k →
    Sys2Proof.core.run n (((s.setStatus .busy .none).setOutlen 0).setCur (s.pos + k) |>.setTokLeft n) = exec .tokDes s

/-- R220: LIT appends the one symbol whose codeword matches at the cursor and moves the cursor over the codeword; STATUS
and everything else is unchanged. -/
def Obligations.LitAppendsTheUniqueMatch : Prop :=
  ∀ (s : State) (k : Nat) (cw : Bits), codewordMatches s.ctTable s.inBit s.inlen s.cur = [(k, cw)] →
    s.outlen < s.par.outMax →
    ∃ t, exec .litTok s = .next t ∧ t.status = s.status ∧ t.err = s.err ∧ t.tokLeft = s.tokLeft ∧
      t.cur = s.cur + cw.length ∧ t.outlen = s.outlen + 1 ∧
      Mem.read t.out s.outlen = some (BitVec.ofNat 7 (s.par.symMin + k)) ∧
      (∀ a, a ≠ s.outlen → Mem.read t.out a = Mem.read s.out a) ∧ SameInputs s t ∧ SameOutside s t ∧
      t.nbits = s.nbits ∧ t.val = s.val ∧ t.olen = s.olen ∧ t.obuf = s.obuf ∧ SameCt s t

/-- R220, R221: a literal at which no entry or more than one entry matches is MalformedToken; with one match and OUT
full it is CapacityExceeded. -/
def Obligations.LitFaultsWithoutAUniqueMatch : Prop :=
  ∀ s : State,
    ((codewordMatches s.ctTable s.inBit s.inlen s.cur).length ≠ 1 →
      ∃ t, exec .litTok s = .next t ∧ t.Faulted .malformedToken) ∧
    ((codewordMatches s.ctTable s.inBit s.inlen s.cur).length = 1 → s.par.outMax ≤ s.outlen →
      ∃ t, exec .litTok s = .next t ∧ t.Faulted .capacityExceeded)

/-- R222, R242, R243: MATCH appends l symbols, the j-th being the one o - (j mod o) back from the end of the output before
the copy, and moves the cursor over its two integers; everything else is unchanged. -/
def Obligations.MatchCopiesPeriodically : Prop :=
  ∀ (s : State) (o l : Nat), s.par.wf = true → 1 ≤ o → o < 2 ^ s.par.valw → 1 ≤ l → l < 2 ^ s.par.valw →
    s.IbufHolds s.cur (eoCode o ++ eoCode l) → o ≤ s.outlen → s.outlen + l ≤ s.par.outMax →
    ∃ t, exec .matchTok s = .next t ∧ t.status = s.status ∧ t.err = s.err ∧ t.tokLeft = s.tokLeft ∧
      t.cur = s.cur + eoLen o + eoLen l ∧ t.outlen = s.outlen + l ∧
      (∀ j, j < l → Mem.read t.out (s.outlen + j) = some (s.outCell (s.outlen - o + j % o))) ∧
      (∀ a, a < s.outlen ∨ s.outlen + l ≤ a → Mem.read t.out a = Mem.read s.out a) ∧ SameInputs s t ∧
      SameOutside s t ∧ t.nbits = s.nbits ∧ t.val = s.val ∧ t.olen = s.olen ∧ t.obuf = s.obuf ∧ SameCt s t

/-- R222, R242, R272, R275: with both integers present, an offset beyond the output is MalformedToken, never clamped, and
a copy that does not fit is CapacityExceeded; an offset or length code cut off by INLEN is MalformedToken, also inside the
length groups of a code whose value group would be over-long; an over-long group in either is BoundsExceeded, also where
the offset is beyond the output. -/
def Obligations.MatchFaultsOnBadOperands : Prop :=
  ∀ (s : State) (o l : Nat), s.par.wf = true → 1 ≤ o → o < 2 ^ s.par.valw → 1 ≤ l → l < 2 ^ s.par.valw →
    (s.IbufHolds s.cur (eoCode o ++ eoCode l) → s.outlen < o →
      ∃ t, exec .matchTok s = .next t ∧ t.Faulted .malformedToken) ∧
    (s.IbufHolds s.cur (eoCode o ++ eoCode l) → o ≤ s.outlen → s.par.outMax < s.outlen + l →
      ∃ t, exec .matchTok s = .next t ∧ t.Faulted .capacityExceeded) ∧
    (∀ b, CutOffCode s.par.eoMaxGroup b → (s.IbufEnds s.cur b ∨ s.IbufEnds s.cur (eoCode o ++ b)) →
      ∃ t, exec .matchTok s = .next t ∧ t.Faulted .malformedToken) ∧
    ∀ m, 2 ^ s.par.eoMaxGroup ≤ m →
      (s.IbufHolds s.cur (lengthGroups m) ∨ s.IbufHolds s.cur (eoCode o ++ lengthGroups m)) →
      ∃ t, exec .matchTok s = .next t ∧ t.Faulted .boundsExceeded

/-- R302: the result of every command but RESET is a function of what R39 marks as read: two blocks that agree on it end
alike, with the same STATUS and ERR and, completed, the same contents of everything the operation writes, whatever the
other registers and memories, the old CT and the old OUTLEN held before. -/
def Obligations.OperationsDependOnlyOnWhatTheyRead : Prop :=
  ∀ (i : Instr) (s s' t t' : State), i ≠ .reset → i ≠ .litTok → i ≠ .matchTok → s.status = .ready →
    s'.status = .ready → SameRead i s s' → exec i s = .next t → exec i s' = .next t' →
    t.status = t'.status ∧ t.err = t'.err ∧ (t.status = .ready → SameWritten i s.olen t t')

/-! ## The composites -/

/-- R253: ENCODE gives exactly the result of HUF_BUILD, HDR_SER and TOK_SER issued one after the other; it faults exactly
where one of them does, with the kind of the first one that faults. -/
def Obligations.EncodeIsItsThreeCommands : Prop :=
  ∀ s : State, s.status = .ready → s.olen ≤ s.par.obMax → s.ntok ≤ s.par.tokMax →
    (∀ c : State, (exec .encode s = .next c ∧ c.status = .ready) ↔
      ∃ a b : State, exec .hufBuild s = .next a ∧ a.status = .ready ∧ exec .hdrSer a = .next b ∧ b.status = .ready ∧
        exec .tokSer b = .next c ∧ c.status = .ready) ∧
    ∀ k : ErrKind, (∃ c, exec .encode s = .next c ∧ c.Faulted k) ↔
      (∃ a, exec .hufBuild s = .next a ∧ a.Faulted k) ∨
      (∃ a b, exec .hufBuild s = .next a ∧ a.status = .ready ∧ exec .hdrSer a = .next b ∧ b.Faulted k) ∨
      ∃ a b c, exec .hufBuild s = .next a ∧ a.status = .ready ∧ exec .hdrSer a = .next b ∧ b.status = .ready ∧
        exec .tokSer b = .next c ∧ c.Faulted k

/-- R253: ENCODE completes for two or more symbols with non-zero counts, tokens that have an encoding over them, and
room for the longest stream they can give; it writes a prefix-free table of those symbols to CT (prefix-free by R177,
which the spec marks as its own inference) and appends its header and the body; everything else is unchanged. -/
def Obligations.EncodeWritesTableHeaderAndBody : Prop :=
  ∀ s : State, s.status = .ready → s.ntok ≤ s.par.tokMax → 1 ≤ s.ntok →
    (∃ j k, j < k ∧ k < Config.nsym ∧ s.freqCell j ≠ 0 ∧ s.freqCell k ≠ 0) →
    (∀ t ∈ s.tokens, t.wf s.par = true) → (expand s.tokens).isSome = true →
    (∀ v, Token.lit v ∈ s.tokens → s.freqCell (v.toNat - s.par.symMin) ≠ 0) →
    s.olen + s.encodeBound ≤ s.par.obMax →
    ∃ t b, exec .encode s = .next t ∧ t.Done ∧ PrefixFree t.ctTable ∧
      (∀ k, (t.ctEntry k).isSome = true ↔ k < Config.nsym ∧ s.freqCell k ≠ 0) ∧
      bodyBits s.par.symMin t.ctTable s.tokens = some b ∧
      AppendedBits s t (headerBits s.par.symMin t.ctTable ++ b) ∧ SameInputs s t ∧ SameOutside s t ∧ NewCt s t ∧
      t.nbits = s.nbits ∧ t.val = s.val ∧ t.outlen = s.outlen ∧ t.out = s.out

/-- R255: DECODE gives exactly the result of HDR_DES, then TOK_DES at POS + NBITS: same table, same output, NBITS the
sum; POS is not changed. It faults exactly where one of them does, with the kind of the first one that faults. -/
def Obligations.DecodeIsHeaderThenBody : Prop :=
  ∀ s : State, s.status = .ready →
    (∀ c : State, (exec .decode s = .next c ∧ c.status = .ready) ↔
      ∃ a b : State, exec .hdrDes s = .next a ∧ a.status = .ready ∧
        exec .tokDes (a.setPos (s.pos + a.nbits)) = .next b ∧ b.status = .ready ∧
        c = (b.setPos s.pos).setNbits (a.nbits + b.nbits)) ∧
    ∀ k : ErrKind, (∃ c, exec .decode s = .next c ∧ c.Faulted k) ↔
      (∃ a, exec .hdrDes s = .next a ∧ a.Faulted k) ∨
      ∃ a b, exec .hdrDes s = .next a ∧ a.status = .ready ∧
        exec .tokDes (a.setPos (s.pos + a.nbits)) = .next b ∧ b.Faulted k

/-- R255, R100: DECODE of a stream that stands at POS, at any bit offset: CT is its table, OUT the expansion of its
tokens, NBITS the length of header and body; everything else is unchanged. -/
def Obligations.DecodeReadsTheStreamAtPos : Prop :=
  ∀ (s : State) (es : List (Nat × Bits)) (ts : List Token) (b : Bits) (syms : List Sym), s.status = .ready →
    s.par.wf = true → s.inlen ≤ s.par.inMax → TableWf es → PrefixFree es → ts ≠ [] → ts.length < 2 ^ s.par.valw →
    (∀ t ∈ ts, t.wf s.par = true) → bodyBits s.par.symMin es ts = some b →
    s.IbufHolds s.pos (headerBits s.par.symMin es ++ b) → expand ts = some syms → syms.length ≤ s.par.outMax →
    ∃ t, exec .decode s = .next t ∧ t.Done ∧ TableIs t es ∧ OutputIs s t syms ∧
      t.nbits = (headerBits s.par.symMin es ++ b).length ∧ SameInputs s t ∧ SameOutside s t ∧ NewCt s t ∧ t.val = s.val ∧
      t.olen = s.olen ∧ t.obuf = s.obuf

/-- R226: the stream round trip. If ENCODE succeeds from OLEN = 0, the bits it wrote, placed in IBUF at bit POS of any
block with the same group bound and symbol range and room for the output, decode to the expansion of the tokens, and
NBITS is the OLEN that ENCODE left. (The token count must have a code the decoder's group bound accepts.) -/
def Obligations.StreamRoundTrip : Prop :=
  ∀ (s t s' : State) (syms : List Sym), s.status = .ready → s.par.wf = true → s.olen = 0 →
    s.ntok < 2 ^ s.par.eoMaxGroup → expand s.tokens = some syms → exec .encode s = .next t → t.status = .ready →
    s'.status = .ready → s'.par.eoMaxGroup = s.par.eoMaxGroup → s'.par.symMin = s.par.symMin →
    s'.inlen ≤ s'.par.inMax → s'.pos + t.olen ≤ s'.inlen → (∀ i, i < t.olen → s'.inBit (s'.pos + i) = t.obufBit i) →
    syms.length ≤ s'.par.outMax →
    ∃ u, exec .decode s' = .next u ∧ u.Done ∧ u.ctTable = t.ctTable ∧ OutputIs s' u syms ∧ u.nbits = t.olen
end

