-- ==== Sys2Proof/Laws/Bits.lean ====
section
/-! SUPPORT. The laws of bit sequences and of reading a bit source. -/

namespace Sys2Proof

@[simp] theorem length_binN (w v : Nat) : (binN w v).length = w := by simp [binN]

theorem length_bin (n : Nat) : (bin n).length = bitlen n := by simp [bin]

theorem bitlen_pos (n : Nat) : 1 ≤ bitlen n := by simp [bitlen]

theorem getElem_binN {w v j : Nat} (h : j < (binN w v).length) : (binN w v)[j] = v.testBit (w - 1 - j) := by
  simp [binN]

@[simp] theorem length_inSeq (bit : Nat → Bool) (c n : Nat) : (inSeq bit c n).length = n := by simp [inSeq]

theorem getElem_inSeq {bit : Nat → Bool} {c n j : Nat} (h : j < (inSeq bit c n).length) :
    (inSeq bit c n)[j] = bit (c + j) := by
  simp [inSeq]

@[simp] theorem inSeq_zero (bit : Nat → Bool) (c : Nat) : inSeq bit c 0 = [] := rfl

/-- A read of m + n bits is a read of m bits and then of n bits. -/
theorem inSeq_add (bit : Nat → Bool) (c m n : Nat) : inSeq bit c (m + n) = inSeq bit c m ++ inSeq bit (c + m) n := by
  simp [inSeq, List.range_add, Function.comp_def, Nat.add_assoc]

/-- A bit source reads a concatenation exactly when it reads the parts one after the other. -/
theorem inSeq_append_iff (bit : Nat → Bool) (c : Nat) (a b : Bits) :
    inSeq bit c (a ++ b).length = a ++ b ↔ inSeq bit c a.length = a ∧ inSeq bit (c + a.length) b.length = b := by
  rw [List.length_append, inSeq_add]
  constructor
  · intro h
    exact List.append_inj h (by simp)
  · rintro ⟨h1, h2⟩
    rw [h1, h2]

/-- Reading depends only on the bits read. -/
theorem inSeq_congr {bit bit' : Nat → Bool} {c n : Nat} (h : ∀ i, c ≤ i → i < c + n → bit i = bit' i) :
    inSeq bit c n = inSeq bit' c n := by
  refine List.ext_getElem (by simp) fun j h1 h2 => ?_
  simp only [getElem_inSeq]
  rw [length_inSeq] at h1
  exact h _ (by omega) (by omega)

theorem avail_iff {len c n : Nat} : avail len c n = true ↔ c + n ≤ len := by simp [avail]

@[simp] theorem val_nil : val [] = 0 := rfl

theorem val_append_singleton (b : Bits) (x : Bool) : val (b ++ [x]) = 2 * val b + x.toNat := by
  simp [val]

theorem val_lt (b : Bits) : val b < 2 ^ b.length := by
  induction b using List.reverseRecOn with
  | nil => simp
  | append_singleton b x ih =>
    rw [val_append_singleton, List.length_append, List.length_singleton, pow_succ]
    have := Bool.toNat_le x
    omega

theorem binN_succ (w v : Nat) : binN (w + 1) v = binN w (v / 2) ++ [v.testBit 0] := by
  refine List.ext_getElem (by simp) fun j h1 h2 => ?_
  rw [length_binN] at h1
  by_cases hj : j < w
  · rw [List.getElem_append_left (by simpa using hj), getElem_binN, getElem_binN]
    rw [show w + 1 - 1 - j = (w - 1 - j) + 1 by omega, Nat.testBit_succ]
  · obtain rfl : j = w := by omega
    rw [List.getElem_append_right (by simp), getElem_binN]
    simp

/-- A number that fits w bits is the value of its w-bit sequence (R11). -/
theorem val_binN (w v : Nat) (h : v < 2 ^ w) : val (binN w v) = v := by
  induction w generalizing v with
  | zero =>
    have : v = 0 := by simpa using h
    simp [this, binN]
  | succ w ih =>
    rw [binN_succ, val_append_singleton, ih _ (by rw [pow_succ] at h; omega), Nat.testBit_zero]
    by_cases hv : v % 2 = 1
    · simp [hv]
      omega
    · simp [hv]
      omega

/-- A bit sequence is the sequence of its value (R11). -/
theorem binN_val (b : Bits) : binN b.length (val b) = b := by
  induction b using List.reverseRecOn with
  | nil => rfl
  | append_singleton b x ih =>
    rw [List.length_append, List.length_singleton, binN_succ, val_append_singleton]
    congr 1
    · have : (2 * val b + x.toNat) / 2 = val b := by
        have := Bool.toNat_le x
        omega
      rw [this, ih]
    · cases x <;> simp

/-- `bitlen` is the least width (R9): n lies between 2^(bitlen n - 1) and 2^(bitlen n). -/
theorem bitlen_spec {n : Nat} (h : 1 ≤ n) : 2 ^ (bitlen n - 1) ≤ n ∧ n < 2 ^ bitlen n := by
  constructor
  · simpa [bitlen] using Nat.log2_self_le (by omega)
  · simpa [bitlen] using Nat.lt_log2_self

theorem val_bin {n : Nat} (h : 1 ≤ n) : val (bin n) = n := val_binN _ _ (bitlen_spec h).2

end Sys2Proof
end

