-- ==== Sys2Proof/Laws/Mem.lean ====
section
/-! SUPPORT. The laws of a memory: reading what was written, the frame of a write, and the canonical form kept by every
operation. -/

namespace Sys2Proof.Machine

variable {α : Type}

@[simp] theorem Mem.read_nil (i : Nat) : Mem.read ([] : Mem α) i = none := rfl

theorem Mem.read_cons (c : Nat × α) (m : Mem α) (i : Nat) :
    Mem.read (c :: m) i = if c.1 = i then some c.2 else Mem.read m i := by
  obtain ⟨j, v⟩ := c
  rfl

@[simp] theorem Mem.read_write_same (m : Mem α) (i : Nat) (v : α) : Mem.read (Mem.write m i v) i = some v := by
  induction m with
  | nil => simp [Mem.write, Mem.read]
  | cons c m ih =>
    obtain ⟨j, w⟩ := c
    unfold Mem.write
    split_ifs with h1 h2
    · simp [Mem.read]
    · simp [Mem.read]
    · simp [Mem.read, ih, Ne.symm h2]

@[simp] theorem Mem.read_write_of_ne (m : Mem α) (i a : Nat) (v : α) (h : a ≠ i) :
    Mem.read (Mem.write m i v) a = Mem.read m a := by
  induction m with
  | nil => simp [Mem.write, Mem.read, Ne.symm h]
  | cons c m ih =>
    obtain ⟨j, w⟩ := c
    unfold Mem.write
    split_ifs with h1 h2
    · simp [Mem.read, Ne.symm h]
    · subst h2
      simp [Mem.read, Ne.symm h]
    · simp [Mem.read, ih]

theorem Mem.read_write (m : Mem α) (i a : Nat) (v : α) :
    Mem.read (Mem.write m i v) a = if a = i then some v else Mem.read m a := by
  split_ifs with h
  · subst h
    simp
  · simp [h]

@[simp] theorem Mem.read_erase (m : Mem α) (i a : Nat) :
    Mem.read (Mem.erase m i) a = if a = i then none else Mem.read m a := by
  induction m with
  | nil => simp [Mem.erase, Mem.read]
  | cons c m ih =>
    obtain ⟨j, w⟩ := c
    unfold Mem.erase
    by_cases h : j = i
    · subst h
      by_cases ha : a = j
      · subst ha
        simpa using ih
      · rw [if_pos rfl, ih]
        simp [Mem.read, ha, Ne.symm ha]
    · rw [if_neg h]
      by_cases ha : a = i
      · subst ha
        simp [Mem.read, h, ih]
      · simp [Mem.read, ih, ha]

/-- What a memory reads after a run of cells was written (R79): the run, and everything else as before. -/
theorem Mem.read_writeSeq (m : Mem α) (i : Nat) (l : List α) (a : Nat) :
    Mem.read (Mem.writeSeq m i l) a =
      if i ≤ a ∧ a < i + l.length then l[a - i]? else Mem.read m a := by
  induction l generalizing m i with
  | nil =>
    have h : ¬ (i ≤ a ∧ a < i + ([] : List α).length) := by simp
    rw [if_neg h]
    rfl
  | cons v l ih =>
    rw [Mem.writeSeq, ih]
    by_cases h : i + 1 ≤ a ∧ a < i + 1 + l.length
    · have h' : i ≤ a ∧ a < i + (v :: l).length := by simp; omega
      rw [if_pos h, if_pos h']
      have : a - i = (a - (i + 1)) + 1 := by omega
      rw [this]
      simp
    · rw [if_neg h, Mem.read_write]
      by_cases ha : a = i
      · subst ha
        simp
      · have h' : ¬ (i ≤ a ∧ a < i + (v :: l).length) := by simp; omega
        rw [if_neg ha, if_neg h']

theorem Mem.read_writeFreq (m : Mem (BitVec 32)) (k a : Nat) (v : BitVec 32) :
    (Mem.read (Mem.writeFreq m k v) a).getD 0 = if a = k then v else (Mem.read m a).getD 0 := by
  unfold Mem.writeFreq
  split_ifs with h1 h2 h2 <;> simp_all

theorem Mem.read_writeCt (m : Mem CtCell) (k a : Nat) (e : Option CtCell) :
    Mem.read (Mem.writeCt m k e) a = if a = k then e else Mem.read m a := by
  cases e with
  | none => simp [Mem.writeCt]
  | some e => simp [Mem.writeCt, Mem.read_write]

/-! ## The canonical form -/

theorem Mem.wf_iff (m : Mem α) (n : Nat) :
    m.wf n = true ↔ m.Pairwise (fun a b => a.1 < b.1) ∧ ∀ c ∈ m, c.1 < n := by
  simp [Mem.wf]

@[simp] theorem Mem.wf_nil (n : Nat) : Mem.wf ([] : Mem α) n = true := by simp [Mem.wf]

theorem Mem.mem_write {m : Mem α} {i : Nat} {v : α} {c : Nat × α} (h : c ∈ Mem.write m i v) : c = (i, v) ∨ c ∈ m := by
  induction m with
  | nil => simpa [Mem.write] using h
  | cons d m ih =>
    obtain ⟨j, w⟩ := d
    unfold Mem.write at h
    split_ifs at h with h1 h2
    · simpa using h
    · simp at h
      rcases h with h | h <;> simp [h]
    · simp at h
      rcases h with h | h
      · simp [h]
      · rcases ih h with h | h <;> simp [h]

theorem Mem.mem_erase {m : Mem α} {i : Nat} {c : Nat × α} (h : c ∈ Mem.erase m i) : c ∈ m := by
  induction m with
  | nil => simp [Mem.erase] at h
  | cons d m ih =>
    obtain ⟨j, w⟩ := d
    unfold Mem.erase at h
    split_ifs at h with h1
    · exact List.mem_cons_of_mem _ (ih h)
    · simp at h
      rcases h with h | h
      · simp [h]
      · simp [ih h]

theorem Mem.wf_write {m : Mem α} {n i : Nat} {v : α} (h : m.wf n = true) (hi : i < n) : (Mem.write m i v).wf n = true := by
  rw [Mem.wf_iff] at h ⊢
  refine ⟨?_, fun c hc => (Mem.mem_write hc).elim (fun e => by simpa [e] using hi) (h.2 c)⟩
  obtain ⟨h, -⟩ := h
  induction m with
  | nil => simp [Mem.write]
  | cons d m ih =>
    obtain ⟨j, w⟩ := d
    rw [List.pairwise_cons] at h
    unfold Mem.write
    split_ifs with h1 h2
    · refine List.pairwise_cons.2 ⟨fun c hc => ?_, List.pairwise_cons.2 h⟩
      rcases List.mem_cons.1 hc with rfl | hc
      · exact h1
      · exact lt_trans h1 (h.1 c hc)
    · subst h2
      exact List.pairwise_cons.2 ⟨h.1, h.2⟩
    · refine List.pairwise_cons.2 ⟨fun c hc => ?_, ih h.2⟩
      rcases Mem.mem_write hc with rfl | hc
      · show j < i
        omega
      · exact h.1 c hc

theorem Mem.wf_erase {m : Mem α} {n i : Nat} (h : m.wf n = true) : (Mem.erase m i).wf n = true := by
  rw [Mem.wf_iff] at h ⊢
  refine ⟨?_, fun c hc => h.2 c (Mem.mem_erase hc)⟩
  obtain ⟨h, -⟩ := h
  induction m with
  | nil => simp [Mem.erase]
  | cons d m ih =>
    obtain ⟨j, w⟩ := d
    rw [List.pairwise_cons] at h
    unfold Mem.erase
    split_ifs with h1
    · exact ih h.2
    · exact List.pairwise_cons.2 ⟨fun c hc => h.1 c (Mem.mem_erase hc), ih h.2⟩

theorem Mem.wf_writeSeq {m : Mem α} {n i : Nat} {l : List α} (h : m.wf n = true) (hi : i + l.length ≤ n) :
    (Mem.writeSeq m i l).wf n = true := by
  induction l generalizing m i with
  | nil => exact h
  | cons v l ih =>
    simp only [List.length_cons] at hi
    exact ih (Mem.wf_write h (by omega)) (by omega)

theorem Mem.wf_writeFreq {m : Mem (BitVec 32)} {n k : Nat} {v : BitVec 32} (h : m.wf n = true) (hk : k < n) :
    (Mem.writeFreq m k v).wf n = true := by
  unfold Mem.writeFreq
  split_ifs
  · exact Mem.wf_erase h
  · exact Mem.wf_write h hk

theorem Mem.wf_writeCt {m : Mem CtCell} {n k : Nat} {e : Option CtCell} (h : m.wf n = true) (hk : k < n) :
    (Mem.writeCt m k e).wf n = true := by
  cases e with
  | none => exact Mem.wf_erase h
  | some e => exact Mem.wf_write h hk

/-- No FREQ cell is ever listed with 0 (R45). -/
theorem Mem.writeFreq_ne_zero {m : Mem (BitVec 32)} {k : Nat} {v : BitVec 32} (h : ∀ c ∈ m, c.2 ≠ 0) :
    ∀ c ∈ Mem.writeFreq m k v, c.2 ≠ 0 := by
  unfold Mem.writeFreq
  split_ifs with hv
  · exact fun c hc => h c (Mem.mem_erase hc)
  · intro c hc
    rcases Mem.mem_write hc with rfl | hc
    · exact hv
    · exact h c hc

end Sys2Proof.Machine
end

