-- ==== Sys2Proof/Laws/State.lean ====
section
/-! SUPPORT. One lemma per field per update of `State`, each true by rfl, so that no later proof unfolds an update; and
the fields of `State.reset`. -/

namespace Sys2Proof.Machine.State

@[simp] theorem setStatus_par (s : State) (st : Status) (e : ErrKind) : (s.setStatus st e).par = s.par := rfl
@[simp] theorem setStatus_status (s : State) (st : Status) (e : ErrKind) : (s.setStatus st e).status = st := rfl
@[simp] theorem setStatus_err (s : State) (st : Status) (e : ErrKind) : (s.setStatus st e).err = e := rfl
@[simp] theorem setStatus_pos (s : State) (st : Status) (e : ErrKind) : (s.setStatus st e).pos = s.pos := rfl
@[simp] theorem setStatus_inlen (s : State) (st : Status) (e : ErrKind) : (s.setStatus st e).inlen = s.inlen := rfl
@[simp] theorem setStatus_nbits (s : State) (st : Status) (e : ErrKind) : (s.setStatus st e).nbits = s.nbits := rfl
@[simp] theorem setStatus_val (s : State) (st : Status) (e : ErrKind) : (s.setStatus st e).val = s.val := rfl
@[simp] theorem setStatus_olen (s : State) (st : Status) (e : ErrKind) : (s.setStatus st e).olen = s.olen := rfl
@[simp] theorem setStatus_outlen (s : State) (st : Status) (e : ErrKind) : (s.setStatus st e).outlen = s.outlen := rfl
@[simp] theorem setStatus_ntok (s : State) (st : Status) (e : ErrKind) : (s.setStatus st e).ntok = s.ntok := rfl
@[simp] theorem setStatus_ibuf (s : State) (st : Status) (e : ErrKind) : (s.setStatus st e).ibuf = s.ibuf := rfl
@[simp] theorem setStatus_obuf (s : State) (st : Status) (e : ErrKind) : (s.setStatus st e).obuf = s.obuf := rfl
@[simp] theorem setStatus_out (s : State) (st : Status) (e : ErrKind) : (s.setStatus st e).out = s.out := rfl
@[simp] theorem setStatus_tok (s : State) (st : Status) (e : ErrKind) : (s.setStatus st e).tok = s.tok := rfl
@[simp] theorem setStatus_freq (s : State) (st : Status) (e : ErrKind) : (s.setStatus st e).freq = s.freq := rfl
@[simp] theorem setStatus_ct (s : State) (st : Status) (e : ErrKind) : (s.setStatus st e).ct = s.ct := rfl
@[simp] theorem setStatus_cur (s : State) (st : Status) (e : ErrKind) : (s.setStatus st e).cur = s.cur := rfl
@[simp] theorem setStatus_tokLeft (s : State) (st : Status) (e : ErrKind) : (s.setStatus st e).tokLeft = s.tokLeft := rfl
@[simp] theorem setStatus_script (s : State) (st : Status) (e : ErrKind) : (s.setStatus st e).script = s.script := rfl
@[simp] theorem setStatus_rdata (s : State) (st : Status) (e : ErrKind) : (s.setStatus st e).rdata = s.rdata := rfl
@[simp] theorem setStatus_epoch (s : State) (st : Status) (e : ErrKind) : (s.setStatus st e).epoch = s.epoch := rfl
@[simp] theorem setStatus_draws (s : State) (st : Status) (e : ErrKind) : (s.setStatus st e).draws = s.draws := rfl
@[simp] theorem setStatus_ctGen (s : State) (st : Status) (e : ErrKind) : (s.setStatus st e).ctGen = s.ctGen := rfl
@[simp] theorem setStatus_ctWrites (s : State) (st : Status) (e : ErrKind) : (s.setStatus st e).ctWrites = s.ctWrites := rfl

@[simp] theorem setPos_par (s : State) (v : Nat) : (s.setPos v).par = s.par := rfl
@[simp] theorem setPos_status (s : State) (v : Nat) : (s.setPos v).status = s.status := rfl
@[simp] theorem setPos_err (s : State) (v : Nat) : (s.setPos v).err = s.err := rfl
@[simp] theorem setPos_pos (s : State) (v : Nat) : (s.setPos v).pos = v := rfl
@[simp] theorem setPos_inlen (s : State) (v : Nat) : (s.setPos v).inlen = s.inlen := rfl
@[simp] theorem setPos_nbits (s : State) (v : Nat) : (s.setPos v).nbits = s.nbits := rfl
@[simp] theorem setPos_val (s : State) (v : Nat) : (s.setPos v).val = s.val := rfl
@[simp] theorem setPos_olen (s : State) (v : Nat) : (s.setPos v).olen = s.olen := rfl
@[simp] theorem setPos_outlen (s : State) (v : Nat) : (s.setPos v).outlen = s.outlen := rfl
@[simp] theorem setPos_ntok (s : State) (v : Nat) : (s.setPos v).ntok = s.ntok := rfl
@[simp] theorem setPos_ibuf (s : State) (v : Nat) : (s.setPos v).ibuf = s.ibuf := rfl
@[simp] theorem setPos_obuf (s : State) (v : Nat) : (s.setPos v).obuf = s.obuf := rfl
@[simp] theorem setPos_out (s : State) (v : Nat) : (s.setPos v).out = s.out := rfl
@[simp] theorem setPos_tok (s : State) (v : Nat) : (s.setPos v).tok = s.tok := rfl
@[simp] theorem setPos_freq (s : State) (v : Nat) : (s.setPos v).freq = s.freq := rfl
@[simp] theorem setPos_ct (s : State) (v : Nat) : (s.setPos v).ct = s.ct := rfl
@[simp] theorem setPos_cur (s : State) (v : Nat) : (s.setPos v).cur = s.cur := rfl
@[simp] theorem setPos_tokLeft (s : State) (v : Nat) : (s.setPos v).tokLeft = s.tokLeft := rfl
@[simp] theorem setPos_script (s : State) (v : Nat) : (s.setPos v).script = s.script := rfl
@[simp] theorem setPos_rdata (s : State) (v : Nat) : (s.setPos v).rdata = s.rdata := rfl
@[simp] theorem setPos_epoch (s : State) (v : Nat) : (s.setPos v).epoch = s.epoch := rfl
@[simp] theorem setPos_draws (s : State) (v : Nat) : (s.setPos v).draws = s.draws := rfl
@[simp] theorem setPos_ctGen (s : State) (v : Nat) : (s.setPos v).ctGen = s.ctGen := rfl
@[simp] theorem setPos_ctWrites (s : State) (v : Nat) : (s.setPos v).ctWrites = s.ctWrites := rfl

@[simp] theorem setInlen_par (s : State) (v : Nat) : (s.setInlen v).par = s.par := rfl
@[simp] theorem setInlen_status (s : State) (v : Nat) : (s.setInlen v).status = s.status := rfl
@[simp] theorem setInlen_err (s : State) (v : Nat) : (s.setInlen v).err = s.err := rfl
@[simp] theorem setInlen_pos (s : State) (v : Nat) : (s.setInlen v).pos = s.pos := rfl
@[simp] theorem setInlen_inlen (s : State) (v : Nat) : (s.setInlen v).inlen = v := rfl
@[simp] theorem setInlen_nbits (s : State) (v : Nat) : (s.setInlen v).nbits = s.nbits := rfl
@[simp] theorem setInlen_val (s : State) (v : Nat) : (s.setInlen v).val = s.val := rfl
@[simp] theorem setInlen_olen (s : State) (v : Nat) : (s.setInlen v).olen = s.olen := rfl
@[simp] theorem setInlen_outlen (s : State) (v : Nat) : (s.setInlen v).outlen = s.outlen := rfl
@[simp] theorem setInlen_ntok (s : State) (v : Nat) : (s.setInlen v).ntok = s.ntok := rfl
@[simp] theorem setInlen_ibuf (s : State) (v : Nat) : (s.setInlen v).ibuf = s.ibuf := rfl
@[simp] theorem setInlen_obuf (s : State) (v : Nat) : (s.setInlen v).obuf = s.obuf := rfl
@[simp] theorem setInlen_out (s : State) (v : Nat) : (s.setInlen v).out = s.out := rfl
@[simp] theorem setInlen_tok (s : State) (v : Nat) : (s.setInlen v).tok = s.tok := rfl
@[simp] theorem setInlen_freq (s : State) (v : Nat) : (s.setInlen v).freq = s.freq := rfl
@[simp] theorem setInlen_ct (s : State) (v : Nat) : (s.setInlen v).ct = s.ct := rfl
@[simp] theorem setInlen_cur (s : State) (v : Nat) : (s.setInlen v).cur = s.cur := rfl
@[simp] theorem setInlen_tokLeft (s : State) (v : Nat) : (s.setInlen v).tokLeft = s.tokLeft := rfl
@[simp] theorem setInlen_script (s : State) (v : Nat) : (s.setInlen v).script = s.script := rfl
@[simp] theorem setInlen_rdata (s : State) (v : Nat) : (s.setInlen v).rdata = s.rdata := rfl
@[simp] theorem setInlen_epoch (s : State) (v : Nat) : (s.setInlen v).epoch = s.epoch := rfl
@[simp] theorem setInlen_draws (s : State) (v : Nat) : (s.setInlen v).draws = s.draws := rfl
@[simp] theorem setInlen_ctGen (s : State) (v : Nat) : (s.setInlen v).ctGen = s.ctGen := rfl
@[simp] theorem setInlen_ctWrites (s : State) (v : Nat) : (s.setInlen v).ctWrites = s.ctWrites := rfl

@[simp] theorem setNbits_par (s : State) (v : Nat) : (s.setNbits v).par = s.par := rfl
@[simp] theorem setNbits_status (s : State) (v : Nat) : (s.setNbits v).status = s.status := rfl
@[simp] theorem setNbits_err (s : State) (v : Nat) : (s.setNbits v).err = s.err := rfl
@[simp] theorem setNbits_pos (s : State) (v : Nat) : (s.setNbits v).pos = s.pos := rfl
@[simp] theorem setNbits_inlen (s : State) (v : Nat) : (s.setNbits v).inlen = s.inlen := rfl
@[simp] theorem setNbits_nbits (s : State) (v : Nat) : (s.setNbits v).nbits = v := rfl
@[simp] theorem setNbits_val (s : State) (v : Nat) : (s.setNbits v).val = s.val := rfl
@[simp] theorem setNbits_olen (s : State) (v : Nat) : (s.setNbits v).olen = s.olen := rfl
@[simp] theorem setNbits_outlen (s : State) (v : Nat) : (s.setNbits v).outlen = s.outlen := rfl
@[simp] theorem setNbits_ntok (s : State) (v : Nat) : (s.setNbits v).ntok = s.ntok := rfl
@[simp] theorem setNbits_ibuf (s : State) (v : Nat) : (s.setNbits v).ibuf = s.ibuf := rfl
@[simp] theorem setNbits_obuf (s : State) (v : Nat) : (s.setNbits v).obuf = s.obuf := rfl
@[simp] theorem setNbits_out (s : State) (v : Nat) : (s.setNbits v).out = s.out := rfl
@[simp] theorem setNbits_tok (s : State) (v : Nat) : (s.setNbits v).tok = s.tok := rfl
@[simp] theorem setNbits_freq (s : State) (v : Nat) : (s.setNbits v).freq = s.freq := rfl
@[simp] theorem setNbits_ct (s : State) (v : Nat) : (s.setNbits v).ct = s.ct := rfl
@[simp] theorem setNbits_cur (s : State) (v : Nat) : (s.setNbits v).cur = s.cur := rfl
@[simp] theorem setNbits_tokLeft (s : State) (v : Nat) : (s.setNbits v).tokLeft = s.tokLeft := rfl
@[simp] theorem setNbits_script (s : State) (v : Nat) : (s.setNbits v).script = s.script := rfl
@[simp] theorem setNbits_rdata (s : State) (v : Nat) : (s.setNbits v).rdata = s.rdata := rfl
@[simp] theorem setNbits_epoch (s : State) (v : Nat) : (s.setNbits v).epoch = s.epoch := rfl
@[simp] theorem setNbits_draws (s : State) (v : Nat) : (s.setNbits v).draws = s.draws := rfl
@[simp] theorem setNbits_ctGen (s : State) (v : Nat) : (s.setNbits v).ctGen = s.ctGen := rfl
@[simp] theorem setNbits_ctWrites (s : State) (v : Nat) : (s.setNbits v).ctWrites = s.ctWrites := rfl

@[simp] theorem setVal_par (s : State) (v : Nat) : (s.setVal v).par = s.par := rfl
@[simp] theorem setVal_status (s : State) (v : Nat) : (s.setVal v).status = s.status := rfl
@[simp] theorem setVal_err (s : State) (v : Nat) : (s.setVal v).err = s.err := rfl
@[simp] theorem setVal_pos (s : State) (v : Nat) : (s.setVal v).pos = s.pos := rfl
@[simp] theorem setVal_inlen (s : State) (v : Nat) : (s.setVal v).inlen = s.inlen := rfl
@[simp] theorem setVal_nbits (s : State) (v : Nat) : (s.setVal v).nbits = s.nbits := rfl
@[simp] theorem setVal_val (s : State) (v : Nat) : (s.setVal v).val = v := rfl
@[simp] theorem setVal_olen (s : State) (v : Nat) : (s.setVal v).olen = s.olen := rfl
@[simp] theorem setVal_outlen (s : State) (v : Nat) : (s.setVal v).outlen = s.outlen := rfl
@[simp] theorem setVal_ntok (s : State) (v : Nat) : (s.setVal v).ntok = s.ntok := rfl
@[simp] theorem setVal_ibuf (s : State) (v : Nat) : (s.setVal v).ibuf = s.ibuf := rfl
@[simp] theorem setVal_obuf (s : State) (v : Nat) : (s.setVal v).obuf = s.obuf := rfl
@[simp] theorem setVal_out (s : State) (v : Nat) : (s.setVal v).out = s.out := rfl
@[simp] theorem setVal_tok (s : State) (v : Nat) : (s.setVal v).tok = s.tok := rfl
@[simp] theorem setVal_freq (s : State) (v : Nat) : (s.setVal v).freq = s.freq := rfl
@[simp] theorem setVal_ct (s : State) (v : Nat) : (s.setVal v).ct = s.ct := rfl
@[simp] theorem setVal_cur (s : State) (v : Nat) : (s.setVal v).cur = s.cur := rfl
@[simp] theorem setVal_tokLeft (s : State) (v : Nat) : (s.setVal v).tokLeft = s.tokLeft := rfl
@[simp] theorem setVal_script (s : State) (v : Nat) : (s.setVal v).script = s.script := rfl
@[simp] theorem setVal_rdata (s : State) (v : Nat) : (s.setVal v).rdata = s.rdata := rfl
@[simp] theorem setVal_epoch (s : State) (v : Nat) : (s.setVal v).epoch = s.epoch := rfl
@[simp] theorem setVal_draws (s : State) (v : Nat) : (s.setVal v).draws = s.draws := rfl
@[simp] theorem setVal_ctGen (s : State) (v : Nat) : (s.setVal v).ctGen = s.ctGen := rfl
@[simp] theorem setVal_ctWrites (s : State) (v : Nat) : (s.setVal v).ctWrites = s.ctWrites := rfl

@[simp] theorem setOlen_par (s : State) (v : Nat) : (s.setOlen v).par = s.par := rfl
@[simp] theorem setOlen_status (s : State) (v : Nat) : (s.setOlen v).status = s.status := rfl
@[simp] theorem setOlen_err (s : State) (v : Nat) : (s.setOlen v).err = s.err := rfl
@[simp] theorem setOlen_pos (s : State) (v : Nat) : (s.setOlen v).pos = s.pos := rfl
@[simp] theorem setOlen_inlen (s : State) (v : Nat) : (s.setOlen v).inlen = s.inlen := rfl
@[simp] theorem setOlen_nbits (s : State) (v : Nat) : (s.setOlen v).nbits = s.nbits := rfl
@[simp] theorem setOlen_val (s : State) (v : Nat) : (s.setOlen v).val = s.val := rfl
@[simp] theorem setOlen_olen (s : State) (v : Nat) : (s.setOlen v).olen = v := rfl
@[simp] theorem setOlen_outlen (s : State) (v : Nat) : (s.setOlen v).outlen = s.outlen := rfl
@[simp] theorem setOlen_ntok (s : State) (v : Nat) : (s.setOlen v).ntok = s.ntok := rfl
@[simp] theorem setOlen_ibuf (s : State) (v : Nat) : (s.setOlen v).ibuf = s.ibuf := rfl
@[simp] theorem setOlen_obuf (s : State) (v : Nat) : (s.setOlen v).obuf = s.obuf := rfl
@[simp] theorem setOlen_out (s : State) (v : Nat) : (s.setOlen v).out = s.out := rfl
@[simp] theorem setOlen_tok (s : State) (v : Nat) : (s.setOlen v).tok = s.tok := rfl
@[simp] theorem setOlen_freq (s : State) (v : Nat) : (s.setOlen v).freq = s.freq := rfl
@[simp] theorem setOlen_ct (s : State) (v : Nat) : (s.setOlen v).ct = s.ct := rfl
@[simp] theorem setOlen_cur (s : State) (v : Nat) : (s.setOlen v).cur = s.cur := rfl
@[simp] theorem setOlen_tokLeft (s : State) (v : Nat) : (s.setOlen v).tokLeft = s.tokLeft := rfl
@[simp] theorem setOlen_script (s : State) (v : Nat) : (s.setOlen v).script = s.script := rfl
@[simp] theorem setOlen_rdata (s : State) (v : Nat) : (s.setOlen v).rdata = s.rdata := rfl
@[simp] theorem setOlen_epoch (s : State) (v : Nat) : (s.setOlen v).epoch = s.epoch := rfl
@[simp] theorem setOlen_draws (s : State) (v : Nat) : (s.setOlen v).draws = s.draws := rfl
@[simp] theorem setOlen_ctGen (s : State) (v : Nat) : (s.setOlen v).ctGen = s.ctGen := rfl
@[simp] theorem setOlen_ctWrites (s : State) (v : Nat) : (s.setOlen v).ctWrites = s.ctWrites := rfl

@[simp] theorem setOutlen_par (s : State) (v : Nat) : (s.setOutlen v).par = s.par := rfl
@[simp] theorem setOutlen_status (s : State) (v : Nat) : (s.setOutlen v).status = s.status := rfl
@[simp] theorem setOutlen_err (s : State) (v : Nat) : (s.setOutlen v).err = s.err := rfl
@[simp] theorem setOutlen_pos (s : State) (v : Nat) : (s.setOutlen v).pos = s.pos := rfl
@[simp] theorem setOutlen_inlen (s : State) (v : Nat) : (s.setOutlen v).inlen = s.inlen := rfl
@[simp] theorem setOutlen_nbits (s : State) (v : Nat) : (s.setOutlen v).nbits = s.nbits := rfl
@[simp] theorem setOutlen_val (s : State) (v : Nat) : (s.setOutlen v).val = s.val := rfl
@[simp] theorem setOutlen_olen (s : State) (v : Nat) : (s.setOutlen v).olen = s.olen := rfl
@[simp] theorem setOutlen_outlen (s : State) (v : Nat) : (s.setOutlen v).outlen = v := rfl
@[simp] theorem setOutlen_ntok (s : State) (v : Nat) : (s.setOutlen v).ntok = s.ntok := rfl
@[simp] theorem setOutlen_ibuf (s : State) (v : Nat) : (s.setOutlen v).ibuf = s.ibuf := rfl
@[simp] theorem setOutlen_obuf (s : State) (v : Nat) : (s.setOutlen v).obuf = s.obuf := rfl
@[simp] theorem setOutlen_out (s : State) (v : Nat) : (s.setOutlen v).out = s.out := rfl
@[simp] theorem setOutlen_tok (s : State) (v : Nat) : (s.setOutlen v).tok = s.tok := rfl
@[simp] theorem setOutlen_freq (s : State) (v : Nat) : (s.setOutlen v).freq = s.freq := rfl
@[simp] theorem setOutlen_ct (s : State) (v : Nat) : (s.setOutlen v).ct = s.ct := rfl
@[simp] theorem setOutlen_cur (s : State) (v : Nat) : (s.setOutlen v).cur = s.cur := rfl
@[simp] theorem setOutlen_tokLeft (s : State) (v : Nat) : (s.setOutlen v).tokLeft = s.tokLeft := rfl
@[simp] theorem setOutlen_script (s : State) (v : Nat) : (s.setOutlen v).script = s.script := rfl
@[simp] theorem setOutlen_rdata (s : State) (v : Nat) : (s.setOutlen v).rdata = s.rdata := rfl
@[simp] theorem setOutlen_epoch (s : State) (v : Nat) : (s.setOutlen v).epoch = s.epoch := rfl
@[simp] theorem setOutlen_draws (s : State) (v : Nat) : (s.setOutlen v).draws = s.draws := rfl
@[simp] theorem setOutlen_ctGen (s : State) (v : Nat) : (s.setOutlen v).ctGen = s.ctGen := rfl
@[simp] theorem setOutlen_ctWrites (s : State) (v : Nat) : (s.setOutlen v).ctWrites = s.ctWrites := rfl

@[simp] theorem setNtok_par (s : State) (v : Nat) : (s.setNtok v).par = s.par := rfl
@[simp] theorem setNtok_status (s : State) (v : Nat) : (s.setNtok v).status = s.status := rfl
@[simp] theorem setNtok_err (s : State) (v : Nat) : (s.setNtok v).err = s.err := rfl
@[simp] theorem setNtok_pos (s : State) (v : Nat) : (s.setNtok v).pos = s.pos := rfl
@[simp] theorem setNtok_inlen (s : State) (v : Nat) : (s.setNtok v).inlen = s.inlen := rfl
@[simp] theorem setNtok_nbits (s : State) (v : Nat) : (s.setNtok v).nbits = s.nbits := rfl
@[simp] theorem setNtok_val (s : State) (v : Nat) : (s.setNtok v).val = s.val := rfl
@[simp] theorem setNtok_olen (s : State) (v : Nat) : (s.setNtok v).olen = s.olen := rfl
@[simp] theorem setNtok_outlen (s : State) (v : Nat) : (s.setNtok v).outlen = s.outlen := rfl
@[simp] theorem setNtok_ntok (s : State) (v : Nat) : (s.setNtok v).ntok = v := rfl
@[simp] theorem setNtok_ibuf (s : State) (v : Nat) : (s.setNtok v).ibuf = s.ibuf := rfl
@[simp] theorem setNtok_obuf (s : State) (v : Nat) : (s.setNtok v).obuf = s.obuf := rfl
@[simp] theorem setNtok_out (s : State) (v : Nat) : (s.setNtok v).out = s.out := rfl
@[simp] theorem setNtok_tok (s : State) (v : Nat) : (s.setNtok v).tok = s.tok := rfl
@[simp] theorem setNtok_freq (s : State) (v : Nat) : (s.setNtok v).freq = s.freq := rfl
@[simp] theorem setNtok_ct (s : State) (v : Nat) : (s.setNtok v).ct = s.ct := rfl
@[simp] theorem setNtok_cur (s : State) (v : Nat) : (s.setNtok v).cur = s.cur := rfl
@[simp] theorem setNtok_tokLeft (s : State) (v : Nat) : (s.setNtok v).tokLeft = s.tokLeft := rfl
@[simp] theorem setNtok_script (s : State) (v : Nat) : (s.setNtok v).script = s.script := rfl
@[simp] theorem setNtok_rdata (s : State) (v : Nat) : (s.setNtok v).rdata = s.rdata := rfl
@[simp] theorem setNtok_epoch (s : State) (v : Nat) : (s.setNtok v).epoch = s.epoch := rfl
@[simp] theorem setNtok_draws (s : State) (v : Nat) : (s.setNtok v).draws = s.draws := rfl
@[simp] theorem setNtok_ctGen (s : State) (v : Nat) : (s.setNtok v).ctGen = s.ctGen := rfl
@[simp] theorem setNtok_ctWrites (s : State) (v : Nat) : (s.setNtok v).ctWrites = s.ctWrites := rfl

@[simp] theorem setIbuf_par (s : State) (v : Mem Bool) : (s.setIbuf v).par = s.par := rfl
@[simp] theorem setIbuf_status (s : State) (v : Mem Bool) : (s.setIbuf v).status = s.status := rfl
@[simp] theorem setIbuf_err (s : State) (v : Mem Bool) : (s.setIbuf v).err = s.err := rfl
@[simp] theorem setIbuf_pos (s : State) (v : Mem Bool) : (s.setIbuf v).pos = s.pos := rfl
@[simp] theorem setIbuf_inlen (s : State) (v : Mem Bool) : (s.setIbuf v).inlen = s.inlen := rfl
@[simp] theorem setIbuf_nbits (s : State) (v : Mem Bool) : (s.setIbuf v).nbits = s.nbits := rfl
@[simp] theorem setIbuf_val (s : State) (v : Mem Bool) : (s.setIbuf v).val = s.val := rfl
@[simp] theorem setIbuf_olen (s : State) (v : Mem Bool) : (s.setIbuf v).olen = s.olen := rfl
@[simp] theorem setIbuf_outlen (s : State) (v : Mem Bool) : (s.setIbuf v).outlen = s.outlen := rfl
@[simp] theorem setIbuf_ntok (s : State) (v : Mem Bool) : (s.setIbuf v).ntok = s.ntok := rfl
@[simp] theorem setIbuf_ibuf (s : State) (v : Mem Bool) : (s.setIbuf v).ibuf = v := rfl
@[simp] theorem setIbuf_obuf (s : State) (v : Mem Bool) : (s.setIbuf v).obuf = s.obuf := rfl
@[simp] theorem setIbuf_out (s : State) (v : Mem Bool) : (s.setIbuf v).out = s.out := rfl
@[simp] theorem setIbuf_tok (s : State) (v : Mem Bool) : (s.setIbuf v).tok = s.tok := rfl
@[simp] theorem setIbuf_freq (s : State) (v : Mem Bool) : (s.setIbuf v).freq = s.freq := rfl
@[simp] theorem setIbuf_ct (s : State) (v : Mem Bool) : (s.setIbuf v).ct = s.ct := rfl
@[simp] theorem setIbuf_cur (s : State) (v : Mem Bool) : (s.setIbuf v).cur = s.cur := rfl
@[simp] theorem setIbuf_tokLeft (s : State) (v : Mem Bool) : (s.setIbuf v).tokLeft = s.tokLeft := rfl
@[simp] theorem setIbuf_script (s : State) (v : Mem Bool) : (s.setIbuf v).script = s.script := rfl
@[simp] theorem setIbuf_rdata (s : State) (v : Mem Bool) : (s.setIbuf v).rdata = s.rdata := rfl
@[simp] theorem setIbuf_epoch (s : State) (v : Mem Bool) : (s.setIbuf v).epoch = s.epoch := rfl
@[simp] theorem setIbuf_draws (s : State) (v : Mem Bool) : (s.setIbuf v).draws = s.draws := rfl
@[simp] theorem setIbuf_ctGen (s : State) (v : Mem Bool) : (s.setIbuf v).ctGen = s.ctGen := rfl
@[simp] theorem setIbuf_ctWrites (s : State) (v : Mem Bool) : (s.setIbuf v).ctWrites = s.ctWrites := rfl

@[simp] theorem setObuf_par (s : State) (v : Mem Bool) : (s.setObuf v).par = s.par := rfl
@[simp] theorem setObuf_status (s : State) (v : Mem Bool) : (s.setObuf v).status = s.status := rfl
@[simp] theorem setObuf_err (s : State) (v : Mem Bool) : (s.setObuf v).err = s.err := rfl
@[simp] theorem setObuf_pos (s : State) (v : Mem Bool) : (s.setObuf v).pos = s.pos := rfl
@[simp] theorem setObuf_inlen (s : State) (v : Mem Bool) : (s.setObuf v).inlen = s.inlen := rfl
@[simp] theorem setObuf_nbits (s : State) (v : Mem Bool) : (s.setObuf v).nbits = s.nbits := rfl
@[simp] theorem setObuf_val (s : State) (v : Mem Bool) : (s.setObuf v).val = s.val := rfl
@[simp] theorem setObuf_olen (s : State) (v : Mem Bool) : (s.setObuf v).olen = s.olen := rfl
@[simp] theorem setObuf_outlen (s : State) (v : Mem Bool) : (s.setObuf v).outlen = s.outlen := rfl
@[simp] theorem setObuf_ntok (s : State) (v : Mem Bool) : (s.setObuf v).ntok = s.ntok := rfl
@[simp] theorem setObuf_ibuf (s : State) (v : Mem Bool) : (s.setObuf v).ibuf = s.ibuf := rfl
@[simp] theorem setObuf_obuf (s : State) (v : Mem Bool) : (s.setObuf v).obuf = v := rfl
@[simp] theorem setObuf_out (s : State) (v : Mem Bool) : (s.setObuf v).out = s.out := rfl
@[simp] theorem setObuf_tok (s : State) (v : Mem Bool) : (s.setObuf v).tok = s.tok := rfl
@[simp] theorem setObuf_freq (s : State) (v : Mem Bool) : (s.setObuf v).freq = s.freq := rfl
@[simp] theorem setObuf_ct (s : State) (v : Mem Bool) : (s.setObuf v).ct = s.ct := rfl
@[simp] theorem setObuf_cur (s : State) (v : Mem Bool) : (s.setObuf v).cur = s.cur := rfl
@[simp] theorem setObuf_tokLeft (s : State) (v : Mem Bool) : (s.setObuf v).tokLeft = s.tokLeft := rfl
@[simp] theorem setObuf_script (s : State) (v : Mem Bool) : (s.setObuf v).script = s.script := rfl
@[simp] theorem setObuf_rdata (s : State) (v : Mem Bool) : (s.setObuf v).rdata = s.rdata := rfl
@[simp] theorem setObuf_epoch (s : State) (v : Mem Bool) : (s.setObuf v).epoch = s.epoch := rfl
@[simp] theorem setObuf_draws (s : State) (v : Mem Bool) : (s.setObuf v).draws = s.draws := rfl
@[simp] theorem setObuf_ctGen (s : State) (v : Mem Bool) : (s.setObuf v).ctGen = s.ctGen := rfl
@[simp] theorem setObuf_ctWrites (s : State) (v : Mem Bool) : (s.setObuf v).ctWrites = s.ctWrites := rfl

@[simp] theorem setOut_par (s : State) (v : Mem Sym) : (s.setOut v).par = s.par := rfl
@[simp] theorem setOut_status (s : State) (v : Mem Sym) : (s.setOut v).status = s.status := rfl
@[simp] theorem setOut_err (s : State) (v : Mem Sym) : (s.setOut v).err = s.err := rfl
@[simp] theorem setOut_pos (s : State) (v : Mem Sym) : (s.setOut v).pos = s.pos := rfl
@[simp] theorem setOut_inlen (s : State) (v : Mem Sym) : (s.setOut v).inlen = s.inlen := rfl
@[simp] theorem setOut_nbits (s : State) (v : Mem Sym) : (s.setOut v).nbits = s.nbits := rfl
@[simp] theorem setOut_val (s : State) (v : Mem Sym) : (s.setOut v).val = s.val := rfl
@[simp] theorem setOut_olen (s : State) (v : Mem Sym) : (s.setOut v).olen = s.olen := rfl
@[simp] theorem setOut_outlen (s : State) (v : Mem Sym) : (s.setOut v).outlen = s.outlen := rfl
@[simp] theorem setOut_ntok (s : State) (v : Mem Sym) : (s.setOut v).ntok = s.ntok := rfl
@[simp] theorem setOut_ibuf (s : State) (v : Mem Sym) : (s.setOut v).ibuf = s.ibuf := rfl
@[simp] theorem setOut_obuf (s : State) (v : Mem Sym) : (s.setOut v).obuf = s.obuf := rfl
@[simp] theorem setOut_out (s : State) (v : Mem Sym) : (s.setOut v).out = v := rfl
@[simp] theorem setOut_tok (s : State) (v : Mem Sym) : (s.setOut v).tok = s.tok := rfl
@[simp] theorem setOut_freq (s : State) (v : Mem Sym) : (s.setOut v).freq = s.freq := rfl
@[simp] theorem setOut_ct (s : State) (v : Mem Sym) : (s.setOut v).ct = s.ct := rfl
@[simp] theorem setOut_cur (s : State) (v : Mem Sym) : (s.setOut v).cur = s.cur := rfl
@[simp] theorem setOut_tokLeft (s : State) (v : Mem Sym) : (s.setOut v).tokLeft = s.tokLeft := rfl
@[simp] theorem setOut_script (s : State) (v : Mem Sym) : (s.setOut v).script = s.script := rfl
@[simp] theorem setOut_rdata (s : State) (v : Mem Sym) : (s.setOut v).rdata = s.rdata := rfl
@[simp] theorem setOut_epoch (s : State) (v : Mem Sym) : (s.setOut v).epoch = s.epoch := rfl
@[simp] theorem setOut_draws (s : State) (v : Mem Sym) : (s.setOut v).draws = s.draws := rfl
@[simp] theorem setOut_ctGen (s : State) (v : Mem Sym) : (s.setOut v).ctGen = s.ctGen := rfl
@[simp] theorem setOut_ctWrites (s : State) (v : Mem Sym) : (s.setOut v).ctWrites = s.ctWrites := rfl

@[simp] theorem setTok_par (s : State) (v : Mem Nat) : (s.setTok v).par = s.par := rfl
@[simp] theorem setTok_status (s : State) (v : Mem Nat) : (s.setTok v).status = s.status := rfl
@[simp] theorem setTok_err (s : State) (v : Mem Nat) : (s.setTok v).err = s.err := rfl
@[simp] theorem setTok_pos (s : State) (v : Mem Nat) : (s.setTok v).pos = s.pos := rfl
@[simp] theorem setTok_inlen (s : State) (v : Mem Nat) : (s.setTok v).inlen = s.inlen := rfl
@[simp] theorem setTok_nbits (s : State) (v : Mem Nat) : (s.setTok v).nbits = s.nbits := rfl
@[simp] theorem setTok_val (s : State) (v : Mem Nat) : (s.setTok v).val = s.val := rfl
@[simp] theorem setTok_olen (s : State) (v : Mem Nat) : (s.setTok v).olen = s.olen := rfl
@[simp] theorem setTok_outlen (s : State) (v : Mem Nat) : (s.setTok v).outlen = s.outlen := rfl
@[simp] theorem setTok_ntok (s : State) (v : Mem Nat) : (s.setTok v).ntok = s.ntok := rfl
@[simp] theorem setTok_ibuf (s : State) (v : Mem Nat) : (s.setTok v).ibuf = s.ibuf := rfl
@[simp] theorem setTok_obuf (s : State) (v : Mem Nat) : (s.setTok v).obuf = s.obuf := rfl
@[simp] theorem setTok_out (s : State) (v : Mem Nat) : (s.setTok v).out = s.out := rfl
@[simp] theorem setTok_tok (s : State) (v : Mem Nat) : (s.setTok v).tok = v := rfl
@[simp] theorem setTok_freq (s : State) (v : Mem Nat) : (s.setTok v).freq = s.freq := rfl
@[simp] theorem setTok_ct (s : State) (v : Mem Nat) : (s.setTok v).ct = s.ct := rfl
@[simp] theorem setTok_cur (s : State) (v : Mem Nat) : (s.setTok v).cur = s.cur := rfl
@[simp] theorem setTok_tokLeft (s : State) (v : Mem Nat) : (s.setTok v).tokLeft = s.tokLeft := rfl
@[simp] theorem setTok_script (s : State) (v : Mem Nat) : (s.setTok v).script = s.script := rfl
@[simp] theorem setTok_rdata (s : State) (v : Mem Nat) : (s.setTok v).rdata = s.rdata := rfl
@[simp] theorem setTok_epoch (s : State) (v : Mem Nat) : (s.setTok v).epoch = s.epoch := rfl
@[simp] theorem setTok_draws (s : State) (v : Mem Nat) : (s.setTok v).draws = s.draws := rfl
@[simp] theorem setTok_ctGen (s : State) (v : Mem Nat) : (s.setTok v).ctGen = s.ctGen := rfl
@[simp] theorem setTok_ctWrites (s : State) (v : Mem Nat) : (s.setTok v).ctWrites = s.ctWrites := rfl

@[simp] theorem setFreq_par (s : State) (v : Mem (BitVec 32)) : (s.setFreq v).par = s.par := rfl
@[simp] theorem setFreq_status (s : State) (v : Mem (BitVec 32)) : (s.setFreq v).status = s.status := rfl
@[simp] theorem setFreq_err (s : State) (v : Mem (BitVec 32)) : (s.setFreq v).err = s.err := rfl
@[simp] theorem setFreq_pos (s : State) (v : Mem (BitVec 32)) : (s.setFreq v).pos = s.pos := rfl
@[simp] theorem setFreq_inlen (s : State) (v : Mem (BitVec 32)) : (s.setFreq v).inlen = s.inlen := rfl
@[simp] theorem setFreq_nbits (s : State) (v : Mem (BitVec 32)) : (s.setFreq v).nbits = s.nbits := rfl
@[simp] theorem setFreq_val (s : State) (v : Mem (BitVec 32)) : (s.setFreq v).val = s.val := rfl
@[simp] theorem setFreq_olen (s : State) (v : Mem (BitVec 32)) : (s.setFreq v).olen = s.olen := rfl
@[simp] theorem setFreq_outlen (s : State) (v : Mem (BitVec 32)) : (s.setFreq v).outlen = s.outlen := rfl
@[simp] theorem setFreq_ntok (s : State) (v : Mem (BitVec 32)) : (s.setFreq v).ntok = s.ntok := rfl
@[simp] theorem setFreq_ibuf (s : State) (v : Mem (BitVec 32)) : (s.setFreq v).ibuf = s.ibuf := rfl
@[simp] theorem setFreq_obuf (s : State) (v : Mem (BitVec 32)) : (s.setFreq v).obuf = s.obuf := rfl
@[simp] theorem setFreq_out (s : State) (v : Mem (BitVec 32)) : (s.setFreq v).out = s.out := rfl
@[simp] theorem setFreq_tok (s : State) (v : Mem (BitVec 32)) : (s.setFreq v).tok = s.tok := rfl
@[simp] theorem setFreq_freq (s : State) (v : Mem (BitVec 32)) : (s.setFreq v).freq = v := rfl
@[simp] theorem setFreq_ct (s : State) (v : Mem (BitVec 32)) : (s.setFreq v).ct = s.ct := rfl
@[simp] theorem setFreq_cur (s : State) (v : Mem (BitVec 32)) : (s.setFreq v).cur = s.cur := rfl
@[simp] theorem setFreq_tokLeft (s : State) (v : Mem (BitVec 32)) : (s.setFreq v).tokLeft = s.tokLeft := rfl
@[simp] theorem setFreq_script (s : State) (v : Mem (BitVec 32)) : (s.setFreq v).script = s.script := rfl
@[simp] theorem setFreq_rdata (s : State) (v : Mem (BitVec 32)) : (s.setFreq v).rdata = s.rdata := rfl
@[simp] theorem setFreq_epoch (s : State) (v : Mem (BitVec 32)) : (s.setFreq v).epoch = s.epoch := rfl
@[simp] theorem setFreq_draws (s : State) (v : Mem (BitVec 32)) : (s.setFreq v).draws = s.draws := rfl
@[simp] theorem setFreq_ctGen (s : State) (v : Mem (BitVec 32)) : (s.setFreq v).ctGen = s.ctGen := rfl
@[simp] theorem setFreq_ctWrites (s : State) (v : Mem (BitVec 32)) : (s.setFreq v).ctWrites = s.ctWrites := rfl

@[simp] theorem setCt_par (s : State) (v : Mem CtCell) : (s.setCt v).par = s.par := rfl
@[simp] theorem setCt_status (s : State) (v : Mem CtCell) : (s.setCt v).status = s.status := rfl
@[simp] theorem setCt_err (s : State) (v : Mem CtCell) : (s.setCt v).err = s.err := rfl
@[simp] theorem setCt_pos (s : State) (v : Mem CtCell) : (s.setCt v).pos = s.pos := rfl
@[simp] theorem setCt_inlen (s : State) (v : Mem CtCell) : (s.setCt v).inlen = s.inlen := rfl
@[simp] theorem setCt_nbits (s : State) (v : Mem CtCell) : (s.setCt v).nbits = s.nbits := rfl
@[simp] theorem setCt_val (s : State) (v : Mem CtCell) : (s.setCt v).val = s.val := rfl
@[simp] theorem setCt_olen (s : State) (v : Mem CtCell) : (s.setCt v).olen = s.olen := rfl
@[simp] theorem setCt_outlen (s : State) (v : Mem CtCell) : (s.setCt v).outlen = s.outlen := rfl
@[simp] theorem setCt_ntok (s : State) (v : Mem CtCell) : (s.setCt v).ntok = s.ntok := rfl
@[simp] theorem setCt_ibuf (s : State) (v : Mem CtCell) : (s.setCt v).ibuf = s.ibuf := rfl
@[simp] theorem setCt_obuf (s : State) (v : Mem CtCell) : (s.setCt v).obuf = s.obuf := rfl
@[simp] theorem setCt_out (s : State) (v : Mem CtCell) : (s.setCt v).out = s.out := rfl
@[simp] theorem setCt_tok (s : State) (v : Mem CtCell) : (s.setCt v).tok = s.tok := rfl
@[simp] theorem setCt_freq (s : State) (v : Mem CtCell) : (s.setCt v).freq = s.freq := rfl
@[simp] theorem setCt_ct (s : State) (v : Mem CtCell) : (s.setCt v).ct = v := rfl
@[simp] theorem setCt_cur (s : State) (v : Mem CtCell) : (s.setCt v).cur = s.cur := rfl
@[simp] theorem setCt_tokLeft (s : State) (v : Mem CtCell) : (s.setCt v).tokLeft = s.tokLeft := rfl
@[simp] theorem setCt_script (s : State) (v : Mem CtCell) : (s.setCt v).script = s.script := rfl
@[simp] theorem setCt_rdata (s : State) (v : Mem CtCell) : (s.setCt v).rdata = s.rdata := rfl
@[simp] theorem setCt_epoch (s : State) (v : Mem CtCell) : (s.setCt v).epoch = s.epoch := rfl
@[simp] theorem setCt_draws (s : State) (v : Mem CtCell) : (s.setCt v).draws = s.draws := rfl
@[simp] theorem setCt_ctGen (s : State) (v : Mem CtCell) : (s.setCt v).ctGen = s.ctGen := rfl
@[simp] theorem setCt_ctWrites (s : State) (v : Mem CtCell) : (s.setCt v).ctWrites = s.ctWrites := rfl

@[simp] theorem setCur_par (s : State) (v : Nat) : (s.setCur v).par = s.par := rfl
@[simp] theorem setCur_status (s : State) (v : Nat) : (s.setCur v).status = s.status := rfl
@[simp] theorem setCur_err (s : State) (v : Nat) : (s.setCur v).err = s.err := rfl
@[simp] theorem setCur_pos (s : State) (v : Nat) : (s.setCur v).pos = s.pos := rfl
@[simp] theorem setCur_inlen (s : State) (v : Nat) : (s.setCur v).inlen = s.inlen := rfl
@[simp] theorem setCur_nbits (s : State) (v : Nat) : (s.setCur v).nbits = s.nbits := rfl
@[simp] theorem setCur_val (s : State) (v : Nat) : (s.setCur v).val = s.val := rfl
@[simp] theorem setCur_olen (s : State) (v : Nat) : (s.setCur v).olen = s.olen := rfl
@[simp] theorem setCur_outlen (s : State) (v : Nat) : (s.setCur v).outlen = s.outlen := rfl
@[simp] theorem setCur_ntok (s : State) (v : Nat) : (s.setCur v).ntok = s.ntok := rfl
@[simp] theorem setCur_ibuf (s : State) (v : Nat) : (s.setCur v).ibuf = s.ibuf := rfl
@[simp] theorem setCur_obuf (s : State) (v : Nat) : (s.setCur v).obuf = s.obuf := rfl
@[simp] theorem setCur_out (s : State) (v : Nat) : (s.setCur v).out = s.out := rfl
@[simp] theorem setCur_tok (s : State) (v : Nat) : (s.setCur v).tok = s.tok := rfl
@[simp] theorem setCur_freq (s : State) (v : Nat) : (s.setCur v).freq = s.freq := rfl
@[simp] theorem setCur_ct (s : State) (v : Nat) : (s.setCur v).ct = s.ct := rfl
@[simp] theorem setCur_cur (s : State) (v : Nat) : (s.setCur v).cur = v := rfl
@[simp] theorem setCur_tokLeft (s : State) (v : Nat) : (s.setCur v).tokLeft = s.tokLeft := rfl
@[simp] theorem setCur_script (s : State) (v : Nat) : (s.setCur v).script = s.script := rfl
@[simp] theorem setCur_rdata (s : State) (v : Nat) : (s.setCur v).rdata = s.rdata := rfl
@[simp] theorem setCur_epoch (s : State) (v : Nat) : (s.setCur v).epoch = s.epoch := rfl
@[simp] theorem setCur_draws (s : State) (v : Nat) : (s.setCur v).draws = s.draws := rfl
@[simp] theorem setCur_ctGen (s : State) (v : Nat) : (s.setCur v).ctGen = s.ctGen := rfl
@[simp] theorem setCur_ctWrites (s : State) (v : Nat) : (s.setCur v).ctWrites = s.ctWrites := rfl

@[simp] theorem setTokLeft_par (s : State) (v : Nat) : (s.setTokLeft v).par = s.par := rfl
@[simp] theorem setTokLeft_status (s : State) (v : Nat) : (s.setTokLeft v).status = s.status := rfl
@[simp] theorem setTokLeft_err (s : State) (v : Nat) : (s.setTokLeft v).err = s.err := rfl
@[simp] theorem setTokLeft_pos (s : State) (v : Nat) : (s.setTokLeft v).pos = s.pos := rfl
@[simp] theorem setTokLeft_inlen (s : State) (v : Nat) : (s.setTokLeft v).inlen = s.inlen := rfl
@[simp] theorem setTokLeft_nbits (s : State) (v : Nat) : (s.setTokLeft v).nbits = s.nbits := rfl
@[simp] theorem setTokLeft_val (s : State) (v : Nat) : (s.setTokLeft v).val = s.val := rfl
@[simp] theorem setTokLeft_olen (s : State) (v : Nat) : (s.setTokLeft v).olen = s.olen := rfl
@[simp] theorem setTokLeft_outlen (s : State) (v : Nat) : (s.setTokLeft v).outlen = s.outlen := rfl
@[simp] theorem setTokLeft_ntok (s : State) (v : Nat) : (s.setTokLeft v).ntok = s.ntok := rfl
@[simp] theorem setTokLeft_ibuf (s : State) (v : Nat) : (s.setTokLeft v).ibuf = s.ibuf := rfl
@[simp] theorem setTokLeft_obuf (s : State) (v : Nat) : (s.setTokLeft v).obuf = s.obuf := rfl
@[simp] theorem setTokLeft_out (s : State) (v : Nat) : (s.setTokLeft v).out = s.out := rfl
@[simp] theorem setTokLeft_tok (s : State) (v : Nat) : (s.setTokLeft v).tok = s.tok := rfl
@[simp] theorem setTokLeft_freq (s : State) (v : Nat) : (s.setTokLeft v).freq = s.freq := rfl
@[simp] theorem setTokLeft_ct (s : State) (v : Nat) : (s.setTokLeft v).ct = s.ct := rfl
@[simp] theorem setTokLeft_cur (s : State) (v : Nat) : (s.setTokLeft v).cur = s.cur := rfl
@[simp] theorem setTokLeft_tokLeft (s : State) (v : Nat) : (s.setTokLeft v).tokLeft = v := rfl
@[simp] theorem setTokLeft_script (s : State) (v : Nat) : (s.setTokLeft v).script = s.script := rfl
@[simp] theorem setTokLeft_rdata (s : State) (v : Nat) : (s.setTokLeft v).rdata = s.rdata := rfl
@[simp] theorem setTokLeft_epoch (s : State) (v : Nat) : (s.setTokLeft v).epoch = s.epoch := rfl
@[simp] theorem setTokLeft_draws (s : State) (v : Nat) : (s.setTokLeft v).draws = s.draws := rfl
@[simp] theorem setTokLeft_ctGen (s : State) (v : Nat) : (s.setTokLeft v).ctGen = s.ctGen := rfl
@[simp] theorem setTokLeft_ctWrites (s : State) (v : Nat) : (s.setTokLeft v).ctWrites = s.ctWrites := rfl

@[simp] theorem setScript_par (s : State) (v : List HostAct) : (s.setScript v).par = s.par := rfl
@[simp] theorem setScript_status (s : State) (v : List HostAct) : (s.setScript v).status = s.status := rfl
@[simp] theorem setScript_err (s : State) (v : List HostAct) : (s.setScript v).err = s.err := rfl
@[simp] theorem setScript_pos (s : State) (v : List HostAct) : (s.setScript v).pos = s.pos := rfl
@[simp] theorem setScript_inlen (s : State) (v : List HostAct) : (s.setScript v).inlen = s.inlen := rfl
@[simp] theorem setScript_nbits (s : State) (v : List HostAct) : (s.setScript v).nbits = s.nbits := rfl
@[simp] theorem setScript_val (s : State) (v : List HostAct) : (s.setScript v).val = s.val := rfl
@[simp] theorem setScript_olen (s : State) (v : List HostAct) : (s.setScript v).olen = s.olen := rfl
@[simp] theorem setScript_outlen (s : State) (v : List HostAct) : (s.setScript v).outlen = s.outlen := rfl
@[simp] theorem setScript_ntok (s : State) (v : List HostAct) : (s.setScript v).ntok = s.ntok := rfl
@[simp] theorem setScript_ibuf (s : State) (v : List HostAct) : (s.setScript v).ibuf = s.ibuf := rfl
@[simp] theorem setScript_obuf (s : State) (v : List HostAct) : (s.setScript v).obuf = s.obuf := rfl
@[simp] theorem setScript_out (s : State) (v : List HostAct) : (s.setScript v).out = s.out := rfl
@[simp] theorem setScript_tok (s : State) (v : List HostAct) : (s.setScript v).tok = s.tok := rfl
@[simp] theorem setScript_freq (s : State) (v : List HostAct) : (s.setScript v).freq = s.freq := rfl
@[simp] theorem setScript_ct (s : State) (v : List HostAct) : (s.setScript v).ct = s.ct := rfl
@[simp] theorem setScript_cur (s : State) (v : List HostAct) : (s.setScript v).cur = s.cur := rfl
@[simp] theorem setScript_tokLeft (s : State) (v : List HostAct) : (s.setScript v).tokLeft = s.tokLeft := rfl
@[simp] theorem setScript_script (s : State) (v : List HostAct) : (s.setScript v).script = v := rfl
@[simp] theorem setScript_rdata (s : State) (v : List HostAct) : (s.setScript v).rdata = s.rdata := rfl
@[simp] theorem setScript_epoch (s : State) (v : List HostAct) : (s.setScript v).epoch = s.epoch := rfl
@[simp] theorem setScript_draws (s : State) (v : List HostAct) : (s.setScript v).draws = s.draws := rfl
@[simp] theorem setScript_ctGen (s : State) (v : List HostAct) : (s.setScript v).ctGen = s.ctGen := rfl
@[simp] theorem setScript_ctWrites (s : State) (v : List HostAct) : (s.setScript v).ctWrites = s.ctWrites := rfl

@[simp] theorem setRdata_par (s : State) (v : PortVal) : (s.setRdata v).par = s.par := rfl
@[simp] theorem setRdata_status (s : State) (v : PortVal) : (s.setRdata v).status = s.status := rfl
@[simp] theorem setRdata_err (s : State) (v : PortVal) : (s.setRdata v).err = s.err := rfl
@[simp] theorem setRdata_pos (s : State) (v : PortVal) : (s.setRdata v).pos = s.pos := rfl
@[simp] theorem setRdata_inlen (s : State) (v : PortVal) : (s.setRdata v).inlen = s.inlen := rfl
@[simp] theorem setRdata_nbits (s : State) (v : PortVal) : (s.setRdata v).nbits = s.nbits := rfl
@[simp] theorem setRdata_val (s : State) (v : PortVal) : (s.setRdata v).val = s.val := rfl
@[simp] theorem setRdata_olen (s : State) (v : PortVal) : (s.setRdata v).olen = s.olen := rfl
@[simp] theorem setRdata_outlen (s : State) (v : PortVal) : (s.setRdata v).outlen = s.outlen := rfl
@[simp] theorem setRdata_ntok (s : State) (v : PortVal) : (s.setRdata v).ntok = s.ntok := rfl
@[simp] theorem setRdata_ibuf (s : State) (v : PortVal) : (s.setRdata v).ibuf = s.ibuf := rfl
@[simp] theorem setRdata_obuf (s : State) (v : PortVal) : (s.setRdata v).obuf = s.obuf := rfl
@[simp] theorem setRdata_out (s : State) (v : PortVal) : (s.setRdata v).out = s.out := rfl
@[simp] theorem setRdata_tok (s : State) (v : PortVal) : (s.setRdata v).tok = s.tok := rfl
@[simp] theorem setRdata_freq (s : State) (v : PortVal) : (s.setRdata v).freq = s.freq := rfl
@[simp] theorem setRdata_ct (s : State) (v : PortVal) : (s.setRdata v).ct = s.ct := rfl
@[simp] theorem setRdata_cur (s : State) (v : PortVal) : (s.setRdata v).cur = s.cur := rfl
@[simp] theorem setRdata_tokLeft (s : State) (v : PortVal) : (s.setRdata v).tokLeft = s.tokLeft := rfl
@[simp] theorem setRdata_script (s : State) (v : PortVal) : (s.setRdata v).script = s.script := rfl
@[simp] theorem setRdata_rdata (s : State) (v : PortVal) : (s.setRdata v).rdata = some v := rfl
@[simp] theorem setRdata_epoch (s : State) (v : PortVal) : (s.setRdata v).epoch = s.epoch := rfl
@[simp] theorem setRdata_draws (s : State) (v : PortVal) : (s.setRdata v).draws = s.draws := rfl
@[simp] theorem setRdata_ctGen (s : State) (v : PortVal) : (s.setRdata v).ctGen = s.ctGen := rfl
@[simp] theorem setRdata_ctWrites (s : State) (v : PortVal) : (s.setRdata v).ctWrites = s.ctWrites := rfl

@[simp] theorem setDraws_par (s : State) (v : Nat) : (s.setDraws v).par = s.par := rfl
@[simp] theorem setDraws_status (s : State) (v : Nat) : (s.setDraws v).status = s.status := rfl
@[simp] theorem setDraws_err (s : State) (v : Nat) : (s.setDraws v).err = s.err := rfl
@[simp] theorem setDraws_pos (s : State) (v : Nat) : (s.setDraws v).pos = s.pos := rfl
@[simp] theorem setDraws_inlen (s : State) (v : Nat) : (s.setDraws v).inlen = s.inlen := rfl
@[simp] theorem setDraws_nbits (s : State) (v : Nat) : (s.setDraws v).nbits = s.nbits := rfl
@[simp] theorem setDraws_val (s : State) (v : Nat) : (s.setDraws v).val = s.val := rfl
@[simp] theorem setDraws_olen (s : State) (v : Nat) : (s.setDraws v).olen = s.olen := rfl
@[simp] theorem setDraws_outlen (s : State) (v : Nat) : (s.setDraws v).outlen = s.outlen := rfl
@[simp] theorem setDraws_ntok (s : State) (v : Nat) : (s.setDraws v).ntok = s.ntok := rfl
@[simp] theorem setDraws_ibuf (s : State) (v : Nat) : (s.setDraws v).ibuf = s.ibuf := rfl
@[simp] theorem setDraws_obuf (s : State) (v : Nat) : (s.setDraws v).obuf = s.obuf := rfl
@[simp] theorem setDraws_out (s : State) (v : Nat) : (s.setDraws v).out = s.out := rfl
@[simp] theorem setDraws_tok (s : State) (v : Nat) : (s.setDraws v).tok = s.tok := rfl
@[simp] theorem setDraws_freq (s : State) (v : Nat) : (s.setDraws v).freq = s.freq := rfl
@[simp] theorem setDraws_ct (s : State) (v : Nat) : (s.setDraws v).ct = s.ct := rfl
@[simp] theorem setDraws_cur (s : State) (v : Nat) : (s.setDraws v).cur = s.cur := rfl
@[simp] theorem setDraws_tokLeft (s : State) (v : Nat) : (s.setDraws v).tokLeft = s.tokLeft := rfl
@[simp] theorem setDraws_script (s : State) (v : Nat) : (s.setDraws v).script = s.script := rfl
@[simp] theorem setDraws_rdata (s : State) (v : Nat) : (s.setDraws v).rdata = s.rdata := rfl
@[simp] theorem setDraws_epoch (s : State) (v : Nat) : (s.setDraws v).epoch = s.epoch := rfl
@[simp] theorem setDraws_draws (s : State) (v : Nat) : (s.setDraws v).draws = v := rfl
@[simp] theorem setDraws_ctGen (s : State) (v : Nat) : (s.setDraws v).ctGen = s.ctGen := rfl
@[simp] theorem setDraws_ctWrites (s : State) (v : Nat) : (s.setDraws v).ctWrites = s.ctWrites := rfl

@[simp] theorem setCtGen_par (s : State) (v : Nat) : (s.setCtGen v).par = s.par := rfl
@[simp] theorem setCtGen_status (s : State) (v : Nat) : (s.setCtGen v).status = s.status := rfl
@[simp] theorem setCtGen_err (s : State) (v : Nat) : (s.setCtGen v).err = s.err := rfl
@[simp] theorem setCtGen_pos (s : State) (v : Nat) : (s.setCtGen v).pos = s.pos := rfl
@[simp] theorem setCtGen_inlen (s : State) (v : Nat) : (s.setCtGen v).inlen = s.inlen := rfl
@[simp] theorem setCtGen_nbits (s : State) (v : Nat) : (s.setCtGen v).nbits = s.nbits := rfl
@[simp] theorem setCtGen_val (s : State) (v : Nat) : (s.setCtGen v).val = s.val := rfl
@[simp] theorem setCtGen_olen (s : State) (v : Nat) : (s.setCtGen v).olen = s.olen := rfl
@[simp] theorem setCtGen_outlen (s : State) (v : Nat) : (s.setCtGen v).outlen = s.outlen := rfl
@[simp] theorem setCtGen_ntok (s : State) (v : Nat) : (s.setCtGen v).ntok = s.ntok := rfl
@[simp] theorem setCtGen_ibuf (s : State) (v : Nat) : (s.setCtGen v).ibuf = s.ibuf := rfl
@[simp] theorem setCtGen_obuf (s : State) (v : Nat) : (s.setCtGen v).obuf = s.obuf := rfl
@[simp] theorem setCtGen_out (s : State) (v : Nat) : (s.setCtGen v).out = s.out := rfl
@[simp] theorem setCtGen_tok (s : State) (v : Nat) : (s.setCtGen v).tok = s.tok := rfl
@[simp] theorem setCtGen_freq (s : State) (v : Nat) : (s.setCtGen v).freq = s.freq := rfl
@[simp] theorem setCtGen_ct (s : State) (v : Nat) : (s.setCtGen v).ct = s.ct := rfl
@[simp] theorem setCtGen_cur (s : State) (v : Nat) : (s.setCtGen v).cur = s.cur := rfl
@[simp] theorem setCtGen_tokLeft (s : State) (v : Nat) : (s.setCtGen v).tokLeft = s.tokLeft := rfl
@[simp] theorem setCtGen_script (s : State) (v : Nat) : (s.setCtGen v).script = s.script := rfl
@[simp] theorem setCtGen_rdata (s : State) (v : Nat) : (s.setCtGen v).rdata = s.rdata := rfl
@[simp] theorem setCtGen_epoch (s : State) (v : Nat) : (s.setCtGen v).epoch = s.epoch := rfl
@[simp] theorem setCtGen_draws (s : State) (v : Nat) : (s.setCtGen v).draws = s.draws := rfl
@[simp] theorem setCtGen_ctGen (s : State) (v : Nat) : (s.setCtGen v).ctGen = v := rfl
@[simp] theorem setCtGen_ctWrites (s : State) (v : Nat) : (s.setCtGen v).ctWrites = s.ctWrites := rfl

@[simp] theorem setCtWrites_par (s : State) (v : Mem Nat) : (s.setCtWrites v).par = s.par := rfl
@[simp] theorem setCtWrites_status (s : State) (v : Mem Nat) : (s.setCtWrites v).status = s.status := rfl
@[simp] theorem setCtWrites_err (s : State) (v : Mem Nat) : (s.setCtWrites v).err = s.err := rfl
@[simp] theorem setCtWrites_pos (s : State) (v : Mem Nat) : (s.setCtWrites v).pos = s.pos := rfl
@[simp] theorem setCtWrites_inlen (s : State) (v : Mem Nat) : (s.setCtWrites v).inlen = s.inlen := rfl
@[simp] theorem setCtWrites_nbits (s : State) (v : Mem Nat) : (s.setCtWrites v).nbits = s.nbits := rfl
@[simp] theorem setCtWrites_val (s : State) (v : Mem Nat) : (s.setCtWrites v).val = s.val := rfl
@[simp] theorem setCtWrites_olen (s : State) (v : Mem Nat) : (s.setCtWrites v).olen = s.olen := rfl
@[simp] theorem setCtWrites_outlen (s : State) (v : Mem Nat) : (s.setCtWrites v).outlen = s.outlen := rfl
@[simp] theorem setCtWrites_ntok (s : State) (v : Mem Nat) : (s.setCtWrites v).ntok = s.ntok := rfl
@[simp] theorem setCtWrites_ibuf (s : State) (v : Mem Nat) : (s.setCtWrites v).ibuf = s.ibuf := rfl
@[simp] theorem setCtWrites_obuf (s : State) (v : Mem Nat) : (s.setCtWrites v).obuf = s.obuf := rfl
@[simp] theorem setCtWrites_out (s : State) (v : Mem Nat) : (s.setCtWrites v).out = s.out := rfl
@[simp] theorem setCtWrites_tok (s : State) (v : Mem Nat) : (s.setCtWrites v).tok = s.tok := rfl
@[simp] theorem setCtWrites_freq (s : State) (v : Mem Nat) : (s.setCtWrites v).freq = s.freq := rfl
@[simp] theorem setCtWrites_ct (s : State) (v : Mem Nat) : (s.setCtWrites v).ct = s.ct := rfl
@[simp] theorem setCtWrites_cur (s : State) (v : Mem Nat) : (s.setCtWrites v).cur = s.cur := rfl
@[simp] theorem setCtWrites_tokLeft (s : State) (v : Mem Nat) : (s.setCtWrites v).tokLeft = s.tokLeft := rfl
@[simp] theorem setCtWrites_script (s : State) (v : Mem Nat) : (s.setCtWrites v).script = s.script := rfl
@[simp] theorem setCtWrites_rdata (s : State) (v : Mem Nat) : (s.setCtWrites v).rdata = s.rdata := rfl
@[simp] theorem setCtWrites_epoch (s : State) (v : Mem Nat) : (s.setCtWrites v).epoch = s.epoch := rfl
@[simp] theorem setCtWrites_draws (s : State) (v : Mem Nat) : (s.setCtWrites v).draws = s.draws := rfl
@[simp] theorem setCtWrites_ctGen (s : State) (v : Mem Nat) : (s.setCtWrites v).ctGen = s.ctGen := rfl
@[simp] theorem setCtWrites_ctWrites (s : State) (v : Mem Nat) : (s.setCtWrites v).ctWrites = v := rfl

@[simp] theorem reset_par : reset.par = Config.defaultParams := rfl
@[simp] theorem reset_status : reset.status = .ready := rfl
@[simp] theorem reset_err : reset.err = .none := rfl
@[simp] theorem reset_pos : reset.pos = 0 := rfl
@[simp] theorem reset_inlen : reset.inlen = 0 := rfl
@[simp] theorem reset_nbits : reset.nbits = 0 := rfl
@[simp] theorem reset_val : reset.val = 0 := rfl
@[simp] theorem reset_olen : reset.olen = 0 := rfl
@[simp] theorem reset_outlen : reset.outlen = 0 := rfl
@[simp] theorem reset_ntok : reset.ntok = 0 := rfl
@[simp] theorem reset_ibuf : reset.ibuf = [] := rfl
@[simp] theorem reset_obuf : reset.obuf = [] := rfl
@[simp] theorem reset_out : reset.out = [] := rfl
@[simp] theorem reset_tok : reset.tok = [] := rfl
@[simp] theorem reset_freq : reset.freq = [] := rfl
@[simp] theorem reset_ct : reset.ct = [] := rfl
@[simp] theorem reset_cur : reset.cur = 0 := rfl
@[simp] theorem reset_tokLeft : reset.tokLeft = 0 := rfl
@[simp] theorem reset_script : reset.script = [] := rfl
@[simp] theorem reset_rdata : reset.rdata = none := rfl
@[simp] theorem reset_epoch : reset.epoch = 0 := rfl
@[simp] theorem reset_draws : reset.draws = 0 := rfl
@[simp] theorem reset_ctGen : reset.ctGen = 0 := rfl
@[simp] theorem reset_ctWrites : reset.ctWrites = [] := rfl

end Sys2Proof.Machine.State
end

