-- ==== Sys2Proof/Laws/Ops.lean ====
section
/-! SUPPORT. The laws of the shared operations: the fields of fault entry, reset, completion and an output append, and for
each operation one lemma that says everything it can do. -/

namespace Sys2Proof.Machine

namespace State

@[simp] theorem faultEntry_par (s : State) (k : ErrKind) : (s.faultEntry k).par = s.par := rfl
@[simp] theorem faultEntry_status (s : State) (k : ErrKind) : (s.faultEntry k).status = .fault := rfl
@[simp] theorem faultEntry_err (s : State) (k : ErrKind) : (s.faultEntry k).err = k := rfl
@[simp] theorem faultEntry_pos (s : State) (k : ErrKind) : (s.faultEntry k).pos = freeRegister s .pos := rfl
@[simp] theorem faultEntry_inlen (s : State) (k : ErrKind) : (s.faultEntry k).inlen = freeRegister s .inlen := rfl
@[simp] theorem faultEntry_nbits (s : State) (k : ErrKind) : (s.faultEntry k).nbits = freeRegister s .nbits := rfl
@[simp] theorem faultEntry_val (s : State) (k : ErrKind) : (s.faultEntry k).val = freeRegister s .val := rfl
@[simp] theorem faultEntry_olen (s : State) (k : ErrKind) : (s.faultEntry k).olen = freeRegister s .olen := rfl
@[simp] theorem faultEntry_outlen (s : State) (k : ErrKind) : (s.faultEntry k).outlen = freeRegister s .outlen := rfl
@[simp] theorem faultEntry_ntok (s : State) (k : ErrKind) : (s.faultEntry k).ntok = freeRegister s .ntok := rfl
@[simp] theorem faultEntry_ibuf (s : State) (k : ErrKind) : (s.faultEntry k).ibuf = [] := rfl
@[simp] theorem faultEntry_obuf (s : State) (k : ErrKind) : (s.faultEntry k).obuf = [] := rfl
@[simp] theorem faultEntry_out (s : State) (k : ErrKind) : (s.faultEntry k).out = [] := rfl
@[simp] theorem faultEntry_tok (s : State) (k : ErrKind) : (s.faultEntry k).tok = [] := rfl
@[simp] theorem faultEntry_freq (s : State) (k : ErrKind) : (s.faultEntry k).freq = freeFreqMem s.epoch := rfl
@[simp] theorem faultEntry_ct (s : State) (k : ErrKind) : (s.faultEntry k).ct = freeCtMem s.epoch := rfl
@[simp] theorem faultEntry_cur (s : State) (k : ErrKind) : (s.faultEntry k).cur = 0 := rfl
@[simp] theorem faultEntry_tokLeft (s : State) (k : ErrKind) : (s.faultEntry k).tokLeft = 0 := rfl
@[simp] theorem faultEntry_script (s : State) (k : ErrKind) : (s.faultEntry k).script = s.script := rfl
@[simp] theorem faultEntry_rdata (s : State) (k : ErrKind) : (s.faultEntry k).rdata = s.rdata := rfl
@[simp] theorem faultEntry_epoch (s : State) (k : ErrKind) : (s.faultEntry k).epoch = s.epoch + 1 := rfl
@[simp] theorem faultEntry_draws (s : State) (k : ErrKind) : (s.faultEntry k).draws = s.draws := rfl
@[simp] theorem faultEntry_ctGen (s : State) (k : ErrKind) : (s.faultEntry k).ctGen = 0 := rfl
@[simp] theorem faultEntry_ctWrites (s : State) (k : ErrKind) : (s.faultEntry k).ctWrites = [] := rfl

@[simp] theorem resetBlock_par (s : State) : (s.resetBlock).par = s.par := rfl
@[simp] theorem resetBlock_status (s : State) : (s.resetBlock).status = .ready := rfl
@[simp] theorem resetBlock_err (s : State) : (s.resetBlock).err = .none := rfl
@[simp] theorem resetBlock_pos (s : State) : (s.resetBlock).pos = 0 := rfl
@[simp] theorem resetBlock_inlen (s : State) : (s.resetBlock).inlen = 0 := rfl
@[simp] theorem resetBlock_nbits (s : State) : (s.resetBlock).nbits = 0 := rfl
@[simp] theorem resetBlock_val (s : State) : (s.resetBlock).val = 0 := rfl
@[simp] theorem resetBlock_olen (s : State) : (s.resetBlock).olen = 0 := rfl
@[simp] theorem resetBlock_outlen (s : State) : (s.resetBlock).outlen = 0 := rfl
@[simp] theorem resetBlock_ntok (s : State) : (s.resetBlock).ntok = 0 := rfl
@[simp] theorem resetBlock_ibuf (s : State) : (s.resetBlock).ibuf = [] := rfl
@[simp] theorem resetBlock_obuf (s : State) : (s.resetBlock).obuf = [] := rfl
@[simp] theorem resetBlock_out (s : State) : (s.resetBlock).out = [] := rfl
@[simp] theorem resetBlock_tok (s : State) : (s.resetBlock).tok = [] := rfl
@[simp] theorem resetBlock_freq (s : State) : (s.resetBlock).freq = [] := rfl
@[simp] theorem resetBlock_ct (s : State) : (s.resetBlock).ct = [] := rfl
@[simp] theorem resetBlock_cur (s : State) : (s.resetBlock).cur = 0 := rfl
@[simp] theorem resetBlock_tokLeft (s : State) : (s.resetBlock).tokLeft = 0 := rfl
@[simp] theorem resetBlock_script (s : State) : (s.resetBlock).script = s.script := rfl
@[simp] theorem resetBlock_rdata (s : State) : (s.resetBlock).rdata = s.rdata := rfl
@[simp] theorem resetBlock_epoch (s : State) : (s.resetBlock).epoch = s.epoch + 1 := rfl
@[simp] theorem resetBlock_draws (s : State) : (s.resetBlock).draws = s.draws := rfl
@[simp] theorem resetBlock_ctGen (s : State) : (s.resetBlock).ctGen = 0 := rfl
@[simp] theorem resetBlock_ctWrites (s : State) : (s.resetBlock).ctWrites = [] := rfl

@[simp] theorem replaceCt_par (s : State) (m : Mem CtCell) : (s.replaceCt m).par = s.par := rfl
@[simp] theorem replaceCt_status (s : State) (m : Mem CtCell) : (s.replaceCt m).status = s.status := rfl
@[simp] theorem replaceCt_err (s : State) (m : Mem CtCell) : (s.replaceCt m).err = s.err := rfl
@[simp] theorem replaceCt_pos (s : State) (m : Mem CtCell) : (s.replaceCt m).pos = s.pos := rfl
@[simp] theorem replaceCt_inlen (s : State) (m : Mem CtCell) : (s.replaceCt m).inlen = s.inlen := rfl
@[simp] theorem replaceCt_nbits (s : State) (m : Mem CtCell) : (s.replaceCt m).nbits = s.nbits := rfl
@[simp] theorem replaceCt_val (s : State) (m : Mem CtCell) : (s.replaceCt m).val = s.val := rfl
@[simp] theorem replaceCt_olen (s : State) (m : Mem CtCell) : (s.replaceCt m).olen = s.olen := rfl
@[simp] theorem replaceCt_outlen (s : State) (m : Mem CtCell) : (s.replaceCt m).outlen = s.outlen := rfl
@[simp] theorem replaceCt_ntok (s : State) (m : Mem CtCell) : (s.replaceCt m).ntok = s.ntok := rfl
@[simp] theorem replaceCt_ibuf (s : State) (m : Mem CtCell) : (s.replaceCt m).ibuf = s.ibuf := rfl
@[simp] theorem replaceCt_obuf (s : State) (m : Mem CtCell) : (s.replaceCt m).obuf = s.obuf := rfl
@[simp] theorem replaceCt_out (s : State) (m : Mem CtCell) : (s.replaceCt m).out = s.out := rfl
@[simp] theorem replaceCt_tok (s : State) (m : Mem CtCell) : (s.replaceCt m).tok = s.tok := rfl
@[simp] theorem replaceCt_freq (s : State) (m : Mem CtCell) : (s.replaceCt m).freq = s.freq := rfl
@[simp] theorem replaceCt_ct (s : State) (m : Mem CtCell) : (s.replaceCt m).ct = m := rfl
@[simp] theorem replaceCt_cur (s : State) (m : Mem CtCell) : (s.replaceCt m).cur = s.cur := rfl
@[simp] theorem replaceCt_tokLeft (s : State) (m : Mem CtCell) : (s.replaceCt m).tokLeft = s.tokLeft := rfl
@[simp] theorem replaceCt_script (s : State) (m : Mem CtCell) : (s.replaceCt m).script = s.script := rfl
@[simp] theorem replaceCt_rdata (s : State) (m : Mem CtCell) : (s.replaceCt m).rdata = s.rdata := rfl
@[simp] theorem replaceCt_epoch (s : State) (m : Mem CtCell) : (s.replaceCt m).epoch = s.epoch := rfl
@[simp] theorem replaceCt_draws (s : State) (m : Mem CtCell) : (s.replaceCt m).draws = s.draws := rfl
@[simp] theorem replaceCt_ctGen (s : State) (m : Mem CtCell) : (s.replaceCt m).ctGen = s.ctGen + 1 := rfl
@[simp] theorem replaceCt_ctWrites (s : State) (m : Mem CtCell) : (s.replaceCt m).ctWrites = s.ctWrites := rfl

@[simp] theorem complete_par (s : State) : (s.complete).par = s.par := rfl
@[simp] theorem complete_status (s : State) : (s.complete).status = .ready := rfl
@[simp] theorem complete_err (s : State) : (s.complete).err = .none := rfl
@[simp] theorem complete_pos (s : State) : (s.complete).pos = s.pos := rfl
@[simp] theorem complete_inlen (s : State) : (s.complete).inlen = s.inlen := rfl
@[simp] theorem complete_nbits (s : State) : (s.complete).nbits = s.nbits := rfl
@[simp] theorem complete_val (s : State) : (s.complete).val = s.val := rfl
@[simp] theorem complete_olen (s : State) : (s.complete).olen = s.olen := rfl
@[simp] theorem complete_outlen (s : State) : (s.complete).outlen = s.outlen := rfl
@[simp] theorem complete_ntok (s : State) : (s.complete).ntok = s.ntok := rfl
@[simp] theorem complete_ibuf (s : State) : (s.complete).ibuf = s.ibuf := rfl
@[simp] theorem complete_obuf (s : State) : (s.complete).obuf = s.obuf := rfl
@[simp] theorem complete_out (s : State) : (s.complete).out = s.out := rfl
@[simp] theorem complete_tok (s : State) : (s.complete).tok = s.tok := rfl
@[simp] theorem complete_freq (s : State) : (s.complete).freq = s.freq := rfl
@[simp] theorem complete_ct (s : State) : (s.complete).ct = s.ct := rfl
@[simp] theorem complete_cur (s : State) : (s.complete).cur = 0 := rfl
@[simp] theorem complete_tokLeft (s : State) : (s.complete).tokLeft = 0 := rfl
@[simp] theorem complete_script (s : State) : (s.complete).script = s.script := rfl
@[simp] theorem complete_rdata (s : State) : (s.complete).rdata = s.rdata := rfl
@[simp] theorem complete_epoch (s : State) : (s.complete).epoch = s.epoch := rfl
@[simp] theorem complete_draws (s : State) : (s.complete).draws = s.draws := rfl
@[simp] theorem complete_ctGen (s : State) : (s.complete).ctGen = s.ctGen := rfl
@[simp] theorem complete_ctWrites (s : State) : (s.complete).ctWrites = s.ctWrites := rfl

@[simp] theorem pushOut_par (s : State) (v : Sym) : (s.pushOut v).par = s.par := rfl
@[simp] theorem pushOut_status (s : State) (v : Sym) : (s.pushOut v).status = s.status := rfl
@[simp] theorem pushOut_err (s : State) (v : Sym) : (s.pushOut v).err = s.err := rfl
@[simp] theorem pushOut_pos (s : State) (v : Sym) : (s.pushOut v).pos = s.pos := rfl
@[simp] theorem pushOut_inlen (s : State) (v : Sym) : (s.pushOut v).inlen = s.inlen := rfl
@[simp] theorem pushOut_nbits (s : State) (v : Sym) : (s.pushOut v).nbits = s.nbits := rfl
@[simp] theorem pushOut_val (s : State) (v : Sym) : (s.pushOut v).val = s.val := rfl
@[simp] theorem pushOut_olen (s : State) (v : Sym) : (s.pushOut v).olen = s.olen := rfl
@[simp] theorem pushOut_outlen (s : State) (v : Sym) : (s.pushOut v).outlen = s.outlen + 1 := rfl
@[simp] theorem pushOut_ntok (s : State) (v : Sym) : (s.pushOut v).ntok = s.ntok := rfl
@[simp] theorem pushOut_ibuf (s : State) (v : Sym) : (s.pushOut v).ibuf = s.ibuf := rfl
@[simp] theorem pushOut_obuf (s : State) (v : Sym) : (s.pushOut v).obuf = s.obuf := rfl
@[simp] theorem pushOut_out (s : State) (v : Sym) : (s.pushOut v).out = Mem.write s.out s.outlen v := rfl
@[simp] theorem pushOut_tok (s : State) (v : Sym) : (s.pushOut v).tok = s.tok := rfl
@[simp] theorem pushOut_freq (s : State) (v : Sym) : (s.pushOut v).freq = s.freq := rfl
@[simp] theorem pushOut_ct (s : State) (v : Sym) : (s.pushOut v).ct = s.ct := rfl
@[simp] theorem pushOut_cur (s : State) (v : Sym) : (s.pushOut v).cur = s.cur := rfl
@[simp] theorem pushOut_tokLeft (s : State) (v : Sym) : (s.pushOut v).tokLeft = s.tokLeft := rfl
@[simp] theorem pushOut_script (s : State) (v : Sym) : (s.pushOut v).script = s.script := rfl
@[simp] theorem pushOut_rdata (s : State) (v : Sym) : (s.pushOut v).rdata = s.rdata := rfl
@[simp] theorem pushOut_epoch (s : State) (v : Sym) : (s.pushOut v).epoch = s.epoch := rfl
@[simp] theorem pushOut_draws (s : State) (v : Sym) : (s.pushOut v).draws = s.draws := rfl
@[simp] theorem pushOut_ctGen (s : State) (v : Sym) : (s.pushOut v).ctGen = s.ctGen := rfl
@[simp] theorem pushOut_ctWrites (s : State) (v : Sym) : (s.pushOut v).ctWrites = s.ctWrites := rfl

end State

/-! ## Issue -/

/-- Everything command issue can answer (R250, R251). -/
theorem issue_cases {legal : Bool} {body : State → Except ErrKind State} {s : State} :
    (s.status = .fault ∧ issue legal body s = .next s) ∨
    (s.status = .busy ∧ issue legal body s = .refused .hostAccessWhileBusy) ∨
    (s.status = .ready ∧ legal = false ∧ issue legal body s = .next (s.faultEntry .illegalCommand)) ∨
    (s.status = .ready ∧ legal = true ∧ ∃ k, body s = .error k ∧ issue legal body s = .next (s.faultEntry k)) ∨
    (s.status = .ready ∧ legal = true ∧ ∃ t, body s = .ok t ∧ issue legal body s = .next t.complete) := by
  unfold issue
  cases hs : s.status
  · cases legal
    · simp [settle]
    · cases hb : body s <;> simp [settle]
  · simp
  · simp

/-- In READY with legal operands, issue is the body, settled (R250). -/
theorem issue_ready {body : State → Except ErrKind State} {s : State} (h : s.status = .ready) :
    issue true body s = .next (settle s (body s)) := by
  simp [issue, h]

/-- In READY, an operation that ends in READY ran its body to its end with legal operands. -/
theorem issue_ready_done {legal : Bool} {body : State → Except ErrKind State} {s t : State} (h : s.status = .ready)
    (hx : issue legal body s = .next t) (ht : t.status = .ready) :
    legal = true ∧ ∃ u, body s = .ok u ∧ t = u.complete := by
  rcases issue_cases (legal := legal) (body := body) (s := s) with ⟨h', _⟩ | ⟨h', _⟩ | ⟨_, _, e⟩ | ⟨_, _, k, _, e⟩ | ⟨_, hl, u, hb, e⟩
  · simp [h] at h'
  · simp [h] at h'
  · rw [hx] at e
    cases e
    simp at ht
  · rw [hx] at e
    cases e
    simp at ht
  · rw [hx] at e
    cases e
    exact ⟨hl, u, hb, rfl⟩

/-- In READY, an operation that ends in FAULT entered it from the state it started in. -/
theorem issue_ready_fault {legal : Bool} {body : State → Except ErrKind State} {s t : State} (h : s.status = .ready)
    (hx : issue legal body s = .next t) (ht : t.status = .fault) :
    t = s.faultEntry t.err ∧ ((legal = false ∧ t.err = .illegalCommand) ∨ (legal = true ∧ body s = .error t.err)) := by
  rcases issue_cases (legal := legal) (body := body) (s := s) with ⟨h', _⟩ | ⟨h', _⟩ | ⟨_, hl, e⟩ | ⟨_, hl, k, hb, e⟩ | ⟨_, hl, u, hb, e⟩
  · simp [h] at h'
  · simp [h] at h'
  · rw [hx] at e
    cases e
    simp [hl]
  · rw [hx] at e
    cases e
    simp [hl, hb]
  · rw [hx] at e
    cases e
    simp at ht

/-! ## Appending bits -/

/-- Everything `Emit` can do (R79). -/
theorem emit_eq (s : State) (b : Bits) :
    emit s b = if s.olen + b.length ≤ s.par.obMax
      then .ok ((s.setObuf (Mem.writeSeq s.obuf s.olen b)).setOlen (s.olen + b.length))
      else .error .capacityExceeded := by
  unfold emit
  split_ifs <;> first | rfl | omega

/-- `Emit` succeeds exactly when the bits fit, and then appends them. -/
theorem emit_ok_iff {s t : State} {b : Bits} :
    emit s b = .ok t ↔ s.olen + b.length ≤ s.par.obMax ∧
      t = (s.setObuf (Mem.writeSeq s.obuf s.olen b)).setOlen (s.olen + b.length) := by
  rw [emit_eq]
  split_ifs with h <;> simp [h, eq_comm]

theorem emit_error_iff {s : State} {b : Bits} {k : ErrKind} :
    emit s b = .error k ↔ s.par.obMax < s.olen + b.length ∧ k = .capacityExceeded := by
  rw [emit_eq]
  split_ifs with h
  · simp
    omega
  · simp [eq_comm]
    omega

/-- Two appends one after the other are the append of both, when both fit. -/
theorem writeSeq_append {α : Type} (m : Mem α) (i : Nat) (a b : List α) :
    Mem.writeSeq (Mem.writeSeq m i a) (i + a.length) b = Mem.writeSeq m i (a ++ b) := by
  induction a generalizing m i with
  | nil => rfl
  | cons v a ih =>
    simp only [List.cons_append, Mem.writeSeq, List.length_cons]
    rw [show i + (a.length + 1) = (i + 1) + a.length by omega]
    exact ih _ _

/-- `Emit(a); Emit(b)` succeeds exactly when `Emit(a ++ b)` does, with the same result. -/
theorem emit_emit {s : State} {a b : Bits} {u : State} :
    (∃ t, emit s a = .ok t ∧ emit t b = .ok u) ↔ emit s (a ++ b) = .ok u := by
  constructor
  · rintro ⟨t, h1, h2⟩
    obtain ⟨-, rfl⟩ := emit_ok_iff.1 h1
    obtain ⟨h3, rfl⟩ := emit_ok_iff.1 h2
    simp at h3
    refine emit_ok_iff.2 ⟨by rw [List.length_append]; omega, ?_⟩
    simp [writeSeq_append, State.setObuf, State.setOlen, Nat.add_assoc]
  · intro h
    obtain ⟨h1, rfl⟩ := emit_ok_iff.1 h
    rw [List.length_append] at h1
    refine ⟨_, emit_ok_iff.2 ⟨by omega, rfl⟩, emit_ok_iff.2 ⟨by simp; omega, ?_⟩⟩
    simp [writeSeq_append, State.setObuf, State.setOlen, Nat.add_assoc]

/-- Everything `EOEmit` can do (R144, R145). -/
theorem eoEmit_ok_iff {s t : State} {n : Nat} : eoEmit s n = .ok t ↔ n ≠ 0 ∧ emit s (eoCode n) = .ok t := by
  unfold eoEmit
  split_ifs with h <;> simp [h]

theorem eoEmit_error_iff {s : State} {n : Nat} {k : ErrKind} :
    eoEmit s n = .error k ↔ (n = 0 ∧ k = .invalidInput) ∨ (n ≠ 0 ∧ emit s (eoCode n) = .error k) := by
  unfold eoEmit
  split_ifs with h <;> simp [h, eq_comm]

/-! ## Appending symbols -/

/-- Everything `SymAppend` can do (R241). -/
theorem symAppend_ok_iff {s t : State} {v : Sym} :
    symAppend s v = .ok t ↔ s.outlen < s.par.outMax ∧ t = s.pushOut v := by
  unfold symAppend
  split_ifs with h
  · simp
    omega
  · simp [eq_comm]
    omega

theorem symAppend_error_iff {s : State} {v : Sym} {k : ErrKind} :
    symAppend s v = .error k ↔ s.par.outMax ≤ s.outlen ∧ k = .capacityExceeded := by
  unfold symAppend
  split_ifs with h
  · simp [h, eq_comm]
  · simp
    omega

/-- Everything `CopyBack` can do (R242). -/
theorem copyBack_ok_iff {s t : State} {o l : Nat} :
    copyBack s o l = .ok t ↔ o ≤ s.outlen ∧ s.outlen + l ≤ s.par.outMax ∧ t = copyLoop l (s.outlen - o) s := by
  unfold copyBack
  split_ifs with h1 h2
  · have : ¬ o ≤ s.outlen := by omega
    simp [this]
  · have : ¬ s.outlen + l ≤ s.par.outMax := by omega
    simp [this]
  · have h3 : o ≤ s.outlen := by omega
    have h4 : s.outlen + l ≤ s.par.outMax := by omega
    simp [h3, h4, eq_comm]

theorem copyBack_error_iff {s : State} {o l : Nat} {k : ErrKind} :
    copyBack s o l = .error k ↔
      (s.outlen < o ∧ k = .malformedToken) ∨ (o ≤ s.outlen ∧ s.par.outMax < s.outlen + l ∧ k = .capacityExceeded) := by
  unfold copyBack
  split_ifs with h1 h2
  · have : ¬ o ≤ s.outlen := by omega
    simp [h1, this, eq_comm]
  · have : o ≤ s.outlen := by omega
    simp [h1, h2, this, eq_comm]
  · simp [h1, h2]

/-- The copy loop writes OUT and OUTLEN and nothing else. -/
theorem copyLoop_frame (n a : Nat) (s : State) :
    copyLoop n a s = { s with out := (copyLoop n a s).out, outlen := s.outlen + n } := by
  induction n generalizing a s with
  | zero => rfl
  | succ n ih =>
    rw [copyLoop, ih]
    simp [State.pushOut, State.setOut, State.setOutlen]
    omega

/-- The copy loop appends: cells below OUTLEN, and cells beyond the copy, read as before (R240). -/
theorem copyLoop_read_outside (n a : Nat) (s : State) (i : Nat) (h : i < s.outlen ∨ s.outlen + n ≤ i) :
    Mem.read (copyLoop n a s).out i = Mem.read s.out i := by
  induction n generalizing a s with
  | zero => rfl
  | succ n ih =>
    rw [copyLoop, ih _ _ (by simp; omega), State.pushOut_out, Mem.read_write_of_ne _ _ _ _ (by omega)]

end Sys2Proof.Machine
end

