-- ==== Sys2Proof/Laws/Step.lean ====
section
/-! SUPPORT. What a step can do, said once: the cases of `fetch` and of `step`. -/

namespace Sys2Proof.Machine

/-- What a step does with what was fetched. -/
def runFetched : Fetched → Host.Outcome State Fault Refusal
  | .settled o => o
  | .run i t =>
    match exec i t with
    | .next u => .next (retire i u)
    | .fault r => .fault r
    | .refused r => .refused r

theorem step_eq_runFetched (s : State) : step s = runFetched (fetch s) := rfl

/-- Everything `fetch` can do: the reset input, the next token of a loop, waiting, or the host's next action. -/
theorem fetch_cases (s : State) :
    (∃ rest, s.script = .hwReset :: rest ∧ fetch s = .settled (.next (s.setScript rest).resetBlock)) ∨
    ((∀ rest, s.script ≠ .hwReset :: rest) ∧ s.status = .busy ∧ fetch s = fetchToken s) ∨
    (s.status ≠ .busy ∧ s.script = [] ∧ fetch s = .settled (.next s)) ∨
    (s.status ≠ .busy ∧ ∃ a rest, s.script = a :: rest ∧ a ≠ .hwReset ∧ fetch s = fetchHost a (s.setScript rest)) := by
  unfold fetch
  cases hs : s.script with
  | nil =>
    by_cases hb : s.status = .busy
    · simp [hb]
    · simp [hb]
  | cons a rest =>
    by_cases ha : a = .hwReset
    · subst ha
      simp [fetchHost]
    · right
      by_cases hb : s.status = .busy
      · left
        refine ⟨fun rest' => by simp [ha], hb, ?_⟩
        cases a <;> first | exact absurd rfl ha | simp [hb]
      · right
        right
        refine ⟨hb, a, rest, rfl, ha, ?_⟩
        cases a <;> first | exact absurd rfl ha | simp [hb]

/-- Everything a host access in READY can do when it answers a next state. -/
theorem readyAccess_next {a : HostAct} {s t : State} (h : readyAccess a s = .next t) :
    a.fits s.par = true ∧ a.cellsExist s.par = true ∧
      ((∃ v, s.answer a = some v ∧ t = (s.setRdata v).setDraws (if a = .rdReg .cmd then s.draws + 1 else s.draws)) ∨
        (s.answer a = none ∧ t = s.hostWrite a)) := by
  unfold readyAccess at h
  by_cases h1 : a.fits s.par = false
  · simp [h1] at h
  by_cases h2 : a.cellsExist s.par = false
  · simp [h1, h2] at h
  rw [if_neg h1, if_neg h2] at h
  refine ⟨by simpa using h1, by simpa using h2, ?_⟩
  cases ha : s.answer a <;> simp only [ha] at h <;> injection h with h <;> exact by simp [← h]

/-- A host access in READY completes when its value fits and its cells exist. -/
theorem readyAccess_completes {a : HostAct} {s : State} (h1 : a.fits s.par = true) (h2 : a.cellsExist s.par = true) :
    ∃ t, readyAccess a s = .next t := by
  cases ha : s.answer a <;> simp [readyAccess, h1, h2, ha]

/-- Everything a host access in FAULT can do: answer STATUS or ERR, refuse another read, ignore a write. -/
theorem faultAccess_cases (a : HostAct) (s : State) :
    (a = .rdReg .status ∧ faultAccess a s = .next (s.setRdata (.reg s.status.code))) ∨
      (a = .rdReg .err ∧ faultAccess a s = .next (s.setRdata (.reg (errCode s.err)))) ∨
      (a.reads = true ∧ a ≠ .rdReg .status ∧ a ≠ .rdReg .err ∧ faultAccess a s = .refused .hostReadInFault) ∨
      (a.reads = false ∧ faultAccess a s = .next s) := by
  cases a with
  | rdReg r => cases r <;> simp [faultAccess, State.faultAnswer, HostAct.reads]
  | _ => simp [faultAccess, State.faultAnswer, HostAct.reads]

/-- A host access in FAULT that answers a next state changes the port's answer only. -/
theorem faultAccess_frame {a : HostAct} {s t : State} (h : faultAccess a s = .next t) : { t with rdata := s.rdata } = s := by
  obtain ⟨-, e⟩ | ⟨-, e⟩ | ⟨-, -, -, e⟩ | ⟨-, e⟩ := faultAccess_cases a s <;> rw [e] at h <;> cases h <;> rfl

/-- Everything a host access can do when it answers a next state. -/
theorem hostAccess_next {a : HostAct} {s t : State} (h : hostAccess a s = .next t) :
    (a.ignored = true ∧ t = s) ∨
      (a.ignored = false ∧
        ((s.status = .ready ∧ readyAccess a s = .next t) ∨ (s.status = .fault ∧ faultAccess a s = .next t) ∨
          (s.status = .busy ∧ a = .rdReg .status ∧ t = s.setRdata (.reg s.status.code)))) := by
  unfold hostAccess at h
  by_cases hi : a.ignored = true
  · rw [if_pos hi] at h
    injection h with h
    exact .inl ⟨hi, h.symm⟩
  · rw [if_neg hi] at h
    refine .inr ⟨by simpa using hi, ?_⟩
    cases hs : s.status <;> simp only [hs] at h
    · exact .inl ⟨rfl, h⟩
    · by_cases h3 : a = .rdReg .status
      · rw [if_pos h3] at h
        injection h with h
        simp [← h, h3]
      · simp [h3] at h
    · exact .inr (.inl ⟨rfl, h⟩)

/-- A retired command is its own result. -/
theorem retire_command {i : Instr} (h1 : i ≠ .litTok) (h2 : i ≠ .matchTok) (s : State) : retire i s = s := by
  cases i <;> first | rfl | exact absurd rfl h1 | exact absurd rfl h2

/-- A command word never decodes to a token. -/
theorem decodeCmd_not_token {w : Byte} {i : Instr} (h : decodeCmd w = .ok i) : i ≠ .litTok ∧ i ≠ .matchTok := by
  unfold decodeCmd at h
  split_ifs at h
  split at h
  · next j hj =>
    injection h with h
    subst h
    unfold decodeOp at hj
    split at hj <;> first | (injection hj with hj; subst hj; decide) | simp at hj
  · simp at h

/-- A fetched command runs as it is: the step adds nothing around it. -/
theorem runFetched_command {i : Instr} (h1 : i ≠ .litTok) (h2 : i ≠ .matchTok) (t : State) :
    runFetched (.run i t) = exec i t := by
  cases h : exec i t <;> simp [runFetched, h, retire_command h1 h2]

end Sys2Proof.Machine
end

