-- ==== Sys2Proof/Laws/PerInstr.lean ====
section
/-! SUPPORT. What holds of every instruction as syntax, one lemma per constructor. -/

namespace Sys2Proof.Laws.EncodedOnce

/-- The instruction's word is a command word with zero reserved bits, or a token's flag; and the table word of a command
is read back as the command (R120, R134). -/
def Statement (i : Instr) : Prop :=
  match encodeInstr i with
  | .command w => rsvdField w = 0 ∧ decodeTableWord 8 w.toNat = some i
  | .token f => decodeTableWord 1 f.toNat = some i

theorem eoEnc : Statement .eoEnc := ⟨rfl, rfl⟩
theorem eoDec : Statement .eoDec := ⟨rfl, rfl⟩
theorem hufBuild : Statement .hufBuild := ⟨rfl, rfl⟩
theorem hdrSer : Statement .hdrSer := ⟨rfl, rfl⟩
theorem hdrDes : Statement .hdrDes := ⟨rfl, rfl⟩
theorem tokSer : Statement .tokSer := ⟨rfl, rfl⟩
theorem tokDes : Statement .tokDes := ⟨rfl, rfl⟩
theorem encode : Statement .encode := ⟨rfl, rfl⟩
theorem decode : Statement .decode := ⟨rfl, rfl⟩
theorem reset : Statement .reset := ⟨rfl, rfl⟩
theorem litTok : Statement .litTok := rfl
theorem matchTok : Statement .matchTok := rfl

end Sys2Proof.Laws.EncodedOnce
end

