-- ==== Sys2Proof/Tests/Slice0.lean ====
section
/-! SUPPORT. The model's own tests: the words of the encoding, the well-formedness checks, one or two vectors of
95_test_vectors.md per instruction, and for every statement with hypotheses a state that meets them. -/

namespace Sys2Proof.Tests

open Sys2Proof.Machine

set_option Elab.async false

/-! ## Helpers -/

/-- The state after an outcome that is a next state. -/
def after (o : Host.Outcome State Fault Refusal) : State :=
  match o with
  | .next t => t
  | .fault _ => State.reset
  | .refused _ => State.reset

/-- A table as (character code, codeword). -/
def ctFrom (l : List (Nat × Bits)) : Mem CtCell := ctOf (l.map fun e => (e.1 - 32, e.2))

/-- `{a:1, b:0}`. -/
def tabAb : List (Nat × Bits) := [(97, [true]), (98, [false])]

/-- `{a:1, b:00, c:01}`. -/
def tabAbc : List (Nat × Bits) := [(97, [true]), (98, [false, false]), (99, [false, true])]

/-- A block whose IBUF holds `b` at index `p` and ends there, with POS and the cursor at `p`. -/
def loaded (p : Nat) (b : Bits) : State :=
  { State.reset with ibuf := Mem.writeSeq [] p b, inlen := p + b.length, pos := p }

/-- A block whose TOK holds the given tokens. -/
def withTokens (ts : List Token) : State :=
  { State.reset with tok := Mem.writeSeq [] 0 (ts.map (Token.toCell 100)), ntok := ts.length }

/-- A block whose FREQ holds the given counts, by character code. -/
def withCounts (l : List (Nat × Nat)) (s : State) : State :=
  { s with freq := l.foldl (fun m e => Mem.writeFreq m (e.1 - 32) (BitVec.ofNat 32 e.2)) [] }

def a : Token := .lit 97#7
def b : Token := .lit 98#7

/-- EO(3), then LIT a, LIT b, MATCH 2,5 under `{a:1, b:0}`: the body of vector TS1 and T1, 17 bits. -/
def bodyT1 : Bits := binN 17 0b01111100010000101

/-- The header of `{a:1, b:0}`: vector HS2, 21 bits. -/
def headerAb : Bits := binN 21 0b010110000111110001010

/-- The header of `{a:1, b:00, c:01}`: vector HS1, 36 bits. -/
def headerAbc : Bits := binN 36 0b011110000111110001001000110001101001

/-! ## The words of the encoding (R120, R105, R106) -/

theorem test_decode_arithmetic_words :
    decodeCmd 0b00000001#8 = .ok .eoEnc ∧ decodeCmd 0b00000010#8 = .ok .eoDec ∧
      decodeCmd 0b00000011#8 = .ok .hufBuild := by decide

theorem test_decode_header_and_token_words :
    decodeCmd 0b00000100#8 = .ok .hdrSer ∧ decodeCmd 0b00000101#8 = .ok .hdrDes ∧
      decodeCmd 0b00000110#8 = .ok .tokSer ∧ decodeCmd 0b00000111#8 = .ok .tokDes := by decide

theorem test_decode_composite_words :
    decodeCmd 0b00001000#8 = .ok .encode ∧ decodeCmd 0b00001001#8 = .ok .decode ∧
      decodeCmd 0b00001111#8 = .ok .reset := by decide

theorem test_decode_flags :
    decodeWord (.token true) = .ok .litTok ∧ decodeWord (.token false) = .ok .matchTok := by decide

theorem test_decode_reserved_words :
    decodeCmd 0x00#8 = .error .reservedOp ∧ decodeCmd 0x0A#8 = .error .reservedOp ∧
      decodeCmd 0x0E#8 = .error .reservedOp ∧ decodeCmd 0x12#8 = .error .reservedBits := by decide

/-- The table words of MATCH and of a command, and LIT's as one bit. -/
theorem test_decode_table_words :
    decodeTableWord 8 0 = some .matchTok ∧ decodeTableWord 8 9 = some .decode ∧ decodeTableWord 1 1 = some .litTok ∧
      decodeTableWord 8 10 = none := by decide

/-- The token of R222's example, `0 010 000101`, is read as MATCH 2,5 and 10 bits. -/
theorem test_decode_match_token :
    (match decodeToken 100 32 [] (fun i => (binN 10 0b0010000101).getD i false) 10 0 with
      | .ok (t, k) => decide (t = .mtch 2 5 ∧ k = 10)
      | .error _ => false) = true := by decide +kernel

/-- Rows of R142. -/
theorem test_eo_codes :
    eoCode 1 = [true] ∧ eoCode 9 = binN 7 0b0011001 ∧ eoCode 16 = binN 11 0b00000010000 ∧
      eoCode 65536 = binN 28 0b10000000000000000 := by decide +kernel

/-! ## The well-formedness checks refuse -/

theorem test_params_wf_refuses :
    Config.defaultParams.wf = true ∧ ({ Config.defaultParams with inMax := 0 } : Params).wf = false ∧
      ({ Config.defaultParams with obMax := 0 } : Params).wf = false ∧
      ({ Config.defaultParams with outMax := 0 } : Params).wf = false ∧
      ({ Config.defaultParams with tokMax := 0 } : Params).wf = false ∧
      ({ Config.defaultParams with eoMaxGroup := 6 } : Params).wf = false ∧
      ({ Config.defaultParams with symMin := 34 } : Params).wf = false := by decide

theorem test_token_wf_refuses :
    (Token.lit 31#7).wf Config.defaultParams = false ∧ (Token.lit 127#7).wf Config.defaultParams = false ∧
      (Token.mtch 0 1).wf Config.defaultParams = false ∧ (Token.mtch 1 0).wf Config.defaultParams = false ∧
      (Token.mtch (2 ^ 100) 1).wf Config.defaultParams = false ∧
      (Token.mtch 1 (2 ^ 100)).wf Config.defaultParams = false := by decide

theorem test_host_value_refused :
    (HostAct.wrReg .cmd 256).fits Config.defaultParams = false ∧
      (HostAct.wrReg .pos (2 ^ 21)).fits Config.defaultParams = false ∧
      (HostAct.wrReg .val (2 ^ 100)).fits Config.defaultParams = false ∧
      (HostAct.wrTok 0 (2 ^ 201)).fits Config.defaultParams = false := by decide +kernel

/-! ## Vectors of 95_test_vectors.md, one step each -/

/-- E3: EO_ENC of 16 at OLEN = 8. -/
theorem test_eoEnc_16 :
    (after (exec .eoEnc { State.reset with val := 16, olen := 8 })).obuf = Mem.writeSeq [] 8 (binN 11 0b00000010000) ∧
      (after (exec .eoEnc { State.reset with val := 16, olen := 8 })).olen = 19 := by decide +kernel

/-- E4. -/
theorem test_eoEnc_zero : (after (exec .eoEnc State.reset)).err = .invalidInput := by decide +kernel

/-- ED5. -/
theorem test_eoDec_at_4 :
    (after (exec .eoDec { loaded 0 (binN 11 0b11100011001) with pos := 4 })).val = 9 ∧
      (after (exec .eoDec { loaded 0 (binN 11 0b11100011001) with pos := 4 })).nbits = 7 := by decide +kernel

/-- ED14: the bound is tested before the availability; ED12: cut off inside a group whose value group may be over-long. -/
theorem test_eoDec_bound :
    (after (exec .eoDec (loaded 0 (binN 13 0b0000100100100)))).err = .boundsExceeded ∧
      (after (exec .eoDec (loaded 0 (binN 8 0b00101110)))).err = .malformedToken := by decide +kernel

/-- H4: four equal counts; the newer node is taken before the older. -/
theorem test_hufBuild_ties :
    (after (exec .hufBuild (withCounts [(97, 1), (98, 1), (99, 1), (100, 1)] State.reset))).ctTable =
      [(65, [false, true]), (66, [false, false]), (67, [true, true]), (68, [true, false])] := by decide +kernel

/-- H13: the deepest codewords of the vectors. -/
theorem test_hufBuild_deep :
    (after (exec .hufBuild (withCounts [(97, 1), (98, 1), (99, 2), (100, 3), (101, 5), (102, 8)] State.reset))).ctTable =
      [(65, binN 5 0b11101), (66, binN 5 0b11100), (67, binN 4 0b1111), (68, binN 3 0b110), (69, binN 2 0b10),
        (70, [false])] := by decide +kernel

/-- HS1. -/
theorem test_hdrSer_abc :
    (after (exec .hdrSer { State.reset with ct := ctFrom tabAbc })).obuf = Mem.writeSeq [] 0 headerAbc := by
  decide +kernel

/-- HS9: a host-written LEN of 95. -/
theorem test_hdrSer_long_len :
    (after (exec .hdrSer { State.reset with ct := [(3, { len := 95, bits := 0 })] })).err = .illegalCommand := by
  decide +kernel

/-- HD10: entries in any order. -/
theorem test_hdrDes_order :
    (after (exec .hdrDes (loaded 0 (binN 21 0b010110001010110000111)))).ct = ctFrom tabAb ∧
      (after (exec .hdrDes (loaded 0 (binN 21 0b010110001010110000111)))).nbits = 21 := by decide +kernel

/-- HD4: a duplicate symbol. -/
theorem test_hdrDes_duplicate :
    (after (exec .hdrDes (loaded 0 (binN 21 0b010110000111110000110)))).err = .malformedHeader := by decide +kernel

/-- TS1. -/
theorem test_tokSer_body :
    (after (exec .tokSer { withTokens [a, b, .mtch 2 5] with ct := ctFrom tabAb })).obuf = Mem.writeSeq [] 0 bodyT1 := by
  decide +kernel

/-- TS6: an offset beyond what is produced. -/
theorem test_tokSer_offset :
    (after (exec .tokSer { withTokens [a, b, .mtch 3 1] with ct := ctFrom tabAb })).err = .invalidInput := by
  decide +kernel

/-- T1: the output is `abababa`. -/
theorem test_tokDes_overlap :
    (after (exec .tokDes { loaded 0 bodyT1 with ct := ctFrom tabAb, outlen := 3 })).out =
      Mem.writeSeq [] 0 [97#7, 98#7, 97#7, 98#7, 97#7, 98#7, 97#7] := by decide +kernel

/-- T18: a bad offset, but the length is decoded first and exceeds the bound. -/
theorem test_tokDes_bound_before_offset :
    (after (exec .tokDes { loaded 0 (binN 24 0b010110011000011000000000) with ct := ctFrom tabAb })).err =
      .boundsExceeded := by decide +kernel

/-- P2's stream built by ENCODE: counts a 4, b 3 give `{a:1, b:0}`. -/
theorem test_encode_stream :
    (after (exec .encode (withCounts [(97, 4), (98, 3)] (withTokens [a, b, .mtch 2 5])))).obuf =
      Mem.writeSeq [] 0 (headerAb ++ bodyT1) := by decide +kernel

/-- P7's reason: one distinct symbol has no header. -/
theorem test_encode_one_symbol :
    (after (exec .encode (withCounts [(97, 5)] (withTokens [a])))).err = .invalidInput := by decide +kernel

/-- P2: the stream behind 5 unrelated bits. -/
theorem test_decode_at_bit_5 :
    (after (exec .decode { loaded 0 (binN 5 0b10110 ++ headerAb ++ bodyT1) with pos := 5 })).outlen = 7 ∧
      (after (exec .decode { loaded 0 (binN 5 0b10110 ++ headerAb ++ bodyT1) with pos := 5 })).nbits = 38 := by
  decide +kernel

/-- P2 from the wrong start. -/
theorem test_decode_wrong_start :
    (after (exec .decode (loaded 0 (binN 5 0b10110 ++ headerAb ++ bodyT1)))).err = .malformedToken := by decide +kernel

/-- K5 and K6. -/
theorem test_reset_from_fault :
    (after (exec .reset { State.reset with status := .fault, err := .malformedToken, pos := 5 })).status = .ready ∧
      (after (exec .reset (withCounts [(97, 3)] { State.reset with ct := ctFrom tabAb }))).freq = [] ∧
      (after (exec .reset (withCounts [(97, 3)] { State.reset with ct := ctFrom tabAb }))).ct = [] := by decide +kernel

/-- T12: two entries match. -/
theorem test_litTok_two_matches :
    (after (exec .litTok { loaded 0 [false, true] with ct := ctFrom [(97, [false]), (98, [false, true])] })).err =
      .malformedToken := by decide +kernel

/-- R220's example: `01` is c. -/
theorem test_litTok_c :
    (after (exec .litTok { loaded 0 [false, true, true] with ct := ctFrom tabAbc })).out = [(0, 99#7)] ∧
      (after (exec .litTok { loaded 0 [false, true, true] with ct := ctFrom tabAbc })).cur = 2 := by decide +kernel

/-- S1: after `ab`, MATCH 2,5 appends `ababa`. -/
theorem test_matchTok_overlap :
    (after (exec .matchTok { loaded 0 (binN 9 0b010000101) with out := [(0, 97#7), (1, 98#7)], outlen := 2 })).out =
      Mem.writeSeq [] 0 [97#7, 98#7, 97#7, 98#7, 97#7, 98#7, 97#7] := by decide +kernel

/-- S3: an offset beyond the output. -/
theorem test_matchTok_offset :
    (after (exec .matchTok { loaded 0 (binN 4 0b0111) with out := [(0, 97#7), (1, 98#7)], outlen := 2 })).err =
      .malformedToken := by decide +kernel

/-! ## The step and the host port -/

/-- What `withFetchWord` stores is what the next step runs. -/
theorem test_fetch_word_runs :
    (after (step (State.reset.withFetchWord 8 1))).err = .invalidInput ∧
      (after (step (State.reset.withFetchWord 8 9))).err = .malformedHeader ∧
      (after (step (State.reset.withFetchWord 1 1))).err = .malformedToken ∧
      (after (step (State.reset.withFetchWord 8 0))).err = .boundsExceeded := by decide +kernel

/-- K4: in FAULT a command is ignored. -/
theorem test_fault_ignores_command :
    (after (step { State.reset with status := .fault, err := .malformedToken, script := [.wrReg .cmd 7] })).err =
      .malformedToken := by decide +kernel

/-- R72: byte 0x78 of P1's stream is the bits 0111 1000. -/
theorem test_byte_order :
    (after (step { State.reset with script := [.wrBytes .ibuf 0 [0x78#8]] })).inSeq 0 8 =
      [false, true, true, true, true, false, false, false] ∧
      (after (step { State.reset with obuf := Mem.writeSeq [] 8 (binN 8 0x7C), script := [.rdBytes .obuf 1 1] })).rdata =
        some (.bytes [0x7C#8]) := by decide +kernel

/-! ## Every statement with hypotheses has a state that meets them

One witness a clause, at a boundary of its range. -/

/-- The outcome is a next state. -/
def isNext (o : Host.Outcome State Fault Refusal) : Bool :=
  match o with
  | .next _ => true
  | .fault _ => false
  | .refused _ => false

theorem next_after {o : Host.Outcome State Fault Refusal} (h : isNext o = true) : o = .next (after o) := by
  cases o <;> first | rfl | simp [isNext] at h

/-- A block with a pending host script. -/
def scripted (l : List HostAct) (s : State) : State := { s with script := l }

/-- A block in FAULT. -/
def faulted : State := { State.reset with status := .fault, err := .malformedToken, pos := 5 }

/-- A block with other parameters. -/
def withPar (p : Params) (s : State) : State := { s with par := p }

/-- Capacities as given; the defaults otherwise. -/
def caps (ib ob ou tk : Nat) : Params :=
  { Config.defaultParams with inMax := ib, obMax := ob, outMax := ou, tokMax := tk }

/-- A token loop in progress: the bits at cell 0, the cursor there, the table, the number of tokens left. -/
def looping (bits : Bits) (tab : List (Nat × Bits)) (n : Nat) : State :=
  { loaded 0 bits with ct := ctFrom tab, status := .busy, tokLeft := n }

theorem witness_EveryStepKeepsTheInvariant :
    ∃ s t : State, s.Inv ∧ s.status = .ready ∧ step s = .next t ∧ t.status = .ready ∧ t.olen = 19 :=
  ⟨scripted [.wrReg .cmd 1] { State.reset with val := 16, olen := 8 }, _,
    by unfold State.Inv State.Fits State.MemWf; decide +kernel, rfl, next_after (by decide +kernel),
    by decide +kernel, by decide +kernel⟩

theorem witness_InstructionWordsDecodeToTheirInstruction : ∃ w i, decodeWord w = .ok i ∧ i = .reset := ⟨.command 0x0F, .reset, rfl, rfl⟩

theorem witness_ReservedCommandWordsRaiseIllegalCommand :
    (∀ w ∈ [0x00, 0x0A, 0x0E, 0x10, 0xFF], w < 256 ∧ (w / 16 ≠ 0 ∨ w % 16 = 0 ∨ (10 ≤ w % 16 ∧ w % 16 ≤ 14))) ∧
      (∃ s : State, s.script = [.wrReg .cmd 0x0A] ∧ s.status = .ready) ∧
      ∃ s : State, s.script = [.wrReg .cmd 0x0A] ∧ s.status = .fault :=
  ⟨by decide, ⟨scripted [.wrReg .cmd 0x0A] State.reset, rfl, rfl⟩, ⟨scripted [.wrReg .cmd 0x0A] faulted, rfl, rfl⟩⟩

theorem witness_StepRunsTheCommandWritten :
    ∃ (s : State) (w : Nat) (i : Instr), s.status ≠ .busy ∧ w < 256 ∧ s.script = [.wrReg .cmd w] ∧
      decodeWord (.command (BitVec.ofNat 8 w)) = .ok i :=
  ⟨scripted [.wrReg .cmd 15] faulted, 15, .reset, by decide, by decide, rfl, rfl⟩

/-- The three clauses: a token that faults, one of two, the last one. -/
theorem witness_StepRunsTheTokenAtTheCursor :
    ∀ c ∈ [(looping [true] [] 1, Status.fault, 0), (looping [true, true, true, false] tabAb 2, .busy, 2),
        (looping [true, true] tabAb 1, .busy, 1)],
      c.1.status = .busy ∧ c.1.script = [] ∧ 0 < c.1.tokLeft ∧ c.1.cur + 1 ≤ c.1.inlen ∧
        decodeFlag (c.1.inBit c.1.cur) = .litTok ∧
        (after (exec .litTok (c.1.setCur (c.1.cur + 1)))).status = c.2.1 ∧
        (after (exec .litTok (c.1.setCur (c.1.cur + 1)))).tokLeft = c.2.2 := by decide +kernel

theorem witness_BlockWaitsWithoutHostAction : ∃ s : State, s.status ≠ .busy ∧ s.script = [] := ⟨State.reset, by decide, rfl⟩

theorem witness_ResetCommandAndResetInputClearTheBlock :
    (∃ s : State, s.status = .ready ∧ s.olen = 5) ∧ (∃ s : State, s.status = .fault ∧ s.pos = 5) ∧
      ∃ s : State, s.script = [.hwReset] ∧ s.status = .busy :=
  ⟨⟨{ State.reset with olen := 5 }, rfl, rfl⟩, ⟨faulted, rfl, rfl⟩, ⟨scripted [.hwReset] (looping [] [] 1), rfl, rfl⟩⟩

theorem witness_FaultIgnoresEveryCommandButReset :
    ∃ (i : Instr) (s : State), s.status = .fault ∧ i ≠ .reset ∧ i ≠ .litTok ∧ i ≠ .matchTok :=
  ⟨.tokDes, faulted, rfl, by decide, by decide, by decide⟩

/-- One step for each of the three ways the conclusion names. -/
theorem witness_OnlyResetLeavesFault :
    ∀ l ∈ [[HostAct.wrReg .pos 1], [.hwReset], [.wrReg .cmd 0x0F]],
      (scripted l faulted).status = .fault ∧ isNext (step (scripted l faulted)) = true := by decide +kernel

/-- A read of STATUS, a read of ERR, a write, a write to a cell that does not exist, and reads that are refused, one of a
cell that does not exist. -/
theorem witness_FaultHostAccessChangesNothing :
    ∀ x ∈ [HostAct.rdReg .status, .rdReg .err, .wrReg .pos 1, .wrFreq 95 1, .rdReg .pos, .rdReg .cmd, .rdCt 0,
        .rdFreq 95], x ≠ .hwReset ∧
      (scripted [x] faulted).script = [x] ∧ (scripted [x] faulted).status = .fault := by decide +kernel

/-- Two different blocks and two different commands that raise the same kind. -/
theorem witness_FaultLeavesNoTraceOfTheData :
    ∃ (i j : Instr) (s s' t t' : State), s.status = .ready ∧ s'.status = .ready ∧ SameOutside s s' ∧ s.pos ≠ s'.pos ∧
      exec i s = .next t ∧ exec j s' = .next t' ∧ t.status = .fault ∧ t'.status = .fault ∧ t.err = t'.err :=
  ⟨.eoDec, .tokDes, State.reset, { State.reset with pos := 9, ct := ctFrom tabAb }, _, _, rfl, rfl,
    ⟨rfl, rfl, rfl, rfl, rfl⟩, by decide, next_after (by decide +kernel), next_after (by decide +kernel),
    by decide +kernel, by decide +kernel, by decide +kernel⟩

theorem witness_OperationsRaiseExactlyTheirKinds :
    (∃ (i : Instr) (s t : State), s.status = .ready ∧ exec i s = .next t ∧ t.status = .fault) ∧
      (∃ i k, mayRaise i k = true) ∧ ∃ s : State, s.status = .ready ∧ s.script = [.wrReg .cmd 0x0E] :=
  ⟨⟨.eoEnc, State.reset, _, rfl, next_after (by decide +kernel), by decide +kernel⟩,
    ⟨.decode, .malformedToken, by decide⟩, ⟨scripted [.wrReg .cmd 0x0E] State.reset, rfl, rfl⟩⟩

/-- Each clause one above its bound. -/
theorem witness_IllegalOperandsRaiseIllegalCommand :
    (∃ s : State, s.status = .ready ∧ s.inlen = s.par.inMax + 1) ∧
      (∃ s : State, s.status = .ready ∧ s.olen = s.par.obMax + 1) ∧
      (∃ s : State, s.status = .ready ∧ s.ntok = s.par.tokMax + 1) ∧
      ∃ (s : State) (k : Nat) (e : CtCell), s.status = .ready ∧ k < Config.nsym ∧ s.ctEntry k = some e ∧
        e.len.toNat = Config.cwMax + 1 :=
  ⟨⟨{ State.reset with inlen := 1048577 }, rfl, rfl⟩, ⟨{ State.reset with olen := 1048577 }, rfl, rfl⟩,
    ⟨{ State.reset with ntok := 1048577 }, rfl, rfl⟩,
    ⟨{ State.reset with ct := [(94, { len := 95, bits := 0 })] }, 94, { len := 95, bits := 0 }, rfl, by decide, rfl, rfl⟩⟩

/-- One completing command for each clause on a memory. -/
theorem witness_CommandsWriteOnlyWhatTheTableMarks :
    ∀ c ∈ [(Instr.eoEnc, { State.reset with val := 1 }),
        (.tokDes, { loaded 0 bodyT1 with ct := ctFrom tabAb }), (.hufBuild, withCounts [(97, 1)] State.reset)],
      c.2.status = .ready ∧ c.1 ≠ .reset ∧ isNext (exec c.1 c.2) = true ∧ (after (exec c.1 c.2)).status = .ready := by
  decide +kernel

/-- The largest value a cursor register takes; a write to a read-only register and one to OUT. -/
theorem witness_HostReadsBackTheRegisterItWrote :
    (∀ c ∈ [(Reg.pos, 2 ^ 21 - 1), (.val, 2 ^ 100 - 1)],
      State.reset.status = .ready ∧ c.2 < 2 ^ c.1.width State.reset.par ∧ c.1 ∈ [Reg.pos, .inlen, .val, .olen, .ntok] ∧
        (scripted [.wrReg c.1 c.2, .rdReg c.1] State.reset).script = [.wrReg c.1 c.2, .rdReg c.1]) ∧
      ∃ (s : State) (a a' : HostAct), s.status ≠ .busy ∧ s.script = [a, a'] ∧
        (∃ r v, r ∈ [Reg.status, .err, .nbits, .outlen] ∧ a = .wrReg r v) ∧ ∃ i v, a' = .wrOut i v :=
  ⟨by decide +kernel, scripted [.wrReg .status 4, .wrOut (2 ^ 20) 0] faulted, _, _, by decide, rfl,
    ⟨.status, 4, by decide, rfl⟩, ⟨2 ^ 20, 0, rfl⟩⟩

/-- The last cell of each memory, with the largest value it takes; the last CT entry written invalid; a LOAD of all of
IBUF's bits, and of as many of OBUF as each of the two memories has. -/
theorem witness_HostReadsBackTheCellItWrote :
    (∀ w ∈ [HostAct.wrBit .ibuf 1048575 true, .wrBit .obuf 0 false, .wrTok 1048575 (2 ^ 201 - 1), .wrFreq 94 0,
        .wrCt 94 true 127 1],
      State.reset.status = .ready ∧ w.fits State.reset.par = true ∧ w.cellsExist State.reset.par = true ∧
        (readBack w).isSome = true) ∧
      (∃ (s : State) (k : Nat), s.status = .ready ∧ k + 1 = Config.nsym ∧ s.script = [.wrCt k false 0 0, .rdCt k]) ∧
      (∃ (s : State) (b : Bits), s.status = .ready ∧ b.length = s.par.inMax ∧ s.script = [.load b]) ∧
      (∃ (s : State) (n : Nat), s.status = .ready ∧ n < s.par.inMax ∧ n = s.par.obMax ∧ s.script = [.loadObuf n]) ∧
      ∃ (s : State) (n : Nat), s.status = .ready ∧ n = s.par.inMax ∧ n < s.par.obMax ∧ s.script = [.loadObuf n] :=
  ⟨by decide +kernel, ⟨scripted [.wrCt 94 false 0 0, .rdCt 94] State.reset, 94, rfl, rfl, rfl⟩,
    ⟨withPar (caps 3 1 1 1) (scripted [.load [true, false, true]] State.reset), _, rfl, rfl, rfl⟩,
    ⟨withPar (caps 9 8 1 1) (scripted [.loadObuf 8] State.reset), 8, rfl, by decide, rfl, rfl⟩,
    ⟨withPar (caps 8 9 1 1) (scripted [.loadObuf 8] State.reset), 8, rfl, rfl, by decide, rfl⟩⟩

/-- An entry with VALID = 0, and a cell nothing has written. -/
theorem witness_ReadingTwiceAnswersTheSame :
    ∀ r ∈ [HostAct.rdCt 94, .rdOut 0],
      (scripted [r, r] State.reset).status = .ready ∧ r.cellsExist State.reset.par = true ∧ r ≠ .rdReg .cmd ∧
        ((scripted [r, r] State.reset).answer r).isSome = true := by decide +kernel

/-- The last two bytes of IBUF, and a last byte of which one bit exists. -/
theorem witness_PortBytesHoldTheEarlierBitHigher :
    (∃ (s : State) (m : BitMem) (j : Nat) (bs : List Byte), s.status = .ready ∧ bs.length = 2 ∧
      j + bs.length = m.bytes s.par ∧ s.script = [.wrBytes m j bs]) ∧
      ∃ (s : State) (m : BitMem) (j : Nat) (bs : List Byte), s.status = .ready ∧ j + bs.length = m.bytes s.par ∧
        8 * j + 1 = m.size s.par ∧ s.script = [.wrBytes m j bs] :=
  ⟨⟨scripted [.wrBytes .ibuf 131070 [0x78#8, 0x7C#8]] State.reset, .ibuf, 131070, [0x78#8, 0x7C#8], rfl, rfl,
      by decide, rfl⟩,
    ⟨withPar (caps 9 1 1 1) (scripted [.wrBytes .ibuf 1 [0x80#8]] State.reset), .ibuf, 1, [0x80#8], rfl, by decide,
      by decide, rfl⟩⟩

/-- An exact fit, and one bit too many. -/
theorem witness_EmitAppendsAllBitsOrNone :
    ({ State.reset with olen := 1048565 } : State).olen + (eoCode 16).length = State.reset.par.obMax ∧
      State.reset.par.obMax + 1 = ({ State.reset with olen := 1048566 } : State).olen + (eoCode 16).length := by
  decide +kernel

/-- A bit source that holds the given bits from index 0. -/
def src (l : Bits) : Nat → Bool := fun i => l.getD i false

theorem witness_EliasOmegaRoundTrip :
    (∀ n ∈ [1, 2 ^ 7 - 1], 1 ≤ n ∧ n < 2 ^ 7 ∧ inSeq (src (eoCode n)) 0 (eoLen n) = eoCode n) ∧
      eoDecode 7 (src [true]) 1 0 = .value 1 1 ∧ inSeq (src (eoCode (2 ^ 7))) 0 (eoLen (2 ^ 7)) = eoCode (2 ^ 7) := by
  decide +kernel

theorem witness_EliasOmegaClosedForm : ∃ n, 1 ≤ n ∧ bitlen n = 1 := ⟨1, by decide, by decide⟩

theorem witness_EliasOmegaCodesArePrefixFree : ∃ m n, 1 ≤ m ∧ 1 ≤ n ∧ eoCode m <+: eoCode n :=
  ⟨9, 9, by decide, by decide, List.prefix_refl _⟩

theorem witness_AcceptedCodesAreAtMost113Bits : ∃ n, eoDecode 100 (src (eoCode (2 ^ 100 - 1))) 113 0 = .value n 113 :=
  ⟨2 ^ 100 - 1, by decide +kernel⟩

/-- An exact fit, a VAL of 0, and one bit too many. -/
theorem witness_EoEncAppendsTheCodeOfVal :
    (∃ s : State, s.status = .ready ∧ s.olen ≤ s.par.obMax ∧ s.val ≠ 0 ∧ s.olen + eoLen s.val = s.par.obMax) ∧
      (∃ s : State, s.status = .ready ∧ s.olen = s.par.obMax ∧ s.val = 0) ∧
      ∃ s : State, s.status = .ready ∧ s.olen ≤ s.par.obMax ∧ s.val ≠ 0 ∧ s.par.obMax + 1 = s.olen + eoLen s.val :=
  ⟨⟨{ State.reset with val := 16, olen := 1048565 }, rfl, by decide, by decide, by decide +kernel⟩,
    ⟨{ State.reset with olen := 1048576 }, rfl, rfl, rfl⟩,
    ⟨{ State.reset with val := 16, olen := 1048566 }, rfl, by decide, by decide, by decide +kernel⟩⟩

/-- The largest accepted integer, at bit 5. -/
theorem witness_EoDecReadsTheCodeAtPos :
    ∃ (s : State) (n : Nat), s.status = .ready ∧ s.par.wf = true ∧ s.inlen ≤ s.par.inMax ∧ 1 ≤ n ∧
      n + 1 = 2 ^ s.par.valw ∧ s.pos = 5 ∧ s.IbufHolds s.pos (eoCode n) :=
  ⟨loaded 5 (eoCode (2 ^ 100 - 1)), 2 ^ 100 - 1, rfl, rfl, by decide +kernel, by decide, by decide +kernel, rfl,
    by decide +kernel, by decide +kernel⟩

/-- Nothing of a code; all of one but its last bit; and all but the last bit of the length groups of the first code that is
over-long. -/
theorem cutOffCode_examples : ∀ b ∈ [[], (eoCode 9).dropLast, (lengthGroups (2 ^ 100)).dropLast], CutOffCode 100 b := by
  simp only [List.forall_mem_cons, List.not_mem_nil, false_implies, implies_true, and_true]
  exact ⟨⟨1, by decide, .inl (by decide +kernel)⟩, ⟨9, by decide, .inl (by decide +kernel)⟩,
    ⟨2 ^ 100, by decide, .inr (by decide +kernel)⟩⟩

/-- POS at INLEN, POS beyond it, and the codes cut off above; then the length groups of the first code that is too long. -/
theorem witness_EoDecFaultsOnCutOffAndOverlongCodes :
    (∀ c ∈ [(loaded 5 [], []), ({ loaded 0 [] with pos := 3 }, []), (loaded 5 (eoCode 9).dropLast, (eoCode 9).dropLast),
        (loaded 5 (lengthGroups (2 ^ 100)).dropLast, (lengthGroups (2 ^ 100)).dropLast)],
      c.1.status = .ready ∧ c.1.par.wf = true ∧ c.1.inlen ≤ c.1.par.inMax ∧ c.1.par.eoMaxGroup = 100 ∧
        c.1.IbufEnds c.1.pos c.2) ∧
      (loaded 5 (lengthGroups (2 ^ 100))).IbufHolds 5 (lengthGroups (2 ^ 100)) := by
  decide +kernel

theorem witness_EachMergeTakesTheTwoLeastLatestNodes : ∃ w : List Node, w.length = 2 := ⟨[.leaf 0 1, .leaf 1 1], rfl⟩

/-- The last symbol with the largest count; and no count at all. -/
theorem witness_HufBuildWritesTheTreesCodewords :
    (∃ (s : State) (k : Nat), s.status = .ready ∧ k + 1 = Config.nsym ∧ s.freqCell k ≠ 0) ∧
      ∃ s : State, s.status = .ready ∧ ∀ k, k < Config.nsym → s.freqCell k = 0 :=
  ⟨⟨withCounts [(126, 4294967295), (32, 1)] State.reset, 94, rfl, rfl, by decide +kernel⟩,
    ⟨State.reset, rfl, fun _ _ => rfl⟩⟩

/-- Two symbols: the last clause has its case. -/
theorem witness_HufBuildTableIsPrefixFreeAndComplete :
    ∃ s t : State, s.status = .ready ∧ exec .hufBuild s = .next t ∧ t.status = .ready ∧ t.ctTable.length = 2 :=
  ⟨withCounts [(97, 4), (98, 3)] State.reset, _, rfl, next_after (by decide +kernel), by decide +kernel,
    by decide +kernel⟩

theorem witness_SingleSymbolGetsTheEmptyCodeword :
    ∃ (s : State) (k : Nat), s.status = .ready ∧ k < Config.nsym ∧ s.freqCell k ≠ 0 ∧
      (∀ j, j < Config.nsym → j ≠ k → s.freqCell j = 0) ∧ s.olen + 8 = s.par.obMax :=
  ⟨{ withCounts [(97, 5)] State.reset with olen := 1048568 }, 65, rfl, by decide, by decide +kernel, by decide +kernel,
    rfl⟩

theorem witness_CodewordSurvivesItsTableEntry : ([] : Bits).length ≤ Config.cwMax ∧ (binN 94 1).length = Config.cwMax := by decide

/-- A block with OBUF of the given capacity and the given table. -/
def serBlock (ob : Nat) (tab : List (Nat × Bits)) : State :=
  withPar (caps 64 ob 64 64) { State.reset with ct := ctFrom tab }

/-- 36 bits into an OBUF of 36, and into one of 35. -/
theorem witness_HdrSerAppendsTheHeader :
    ∀ ob ∈ [36, 35], (serBlock ob tabAbc).status = .ready ∧ (serBlock ob tabAbc).ctLegal = true ∧
      (serBlock ob tabAbc).ctTable ≠ [] ∧ (∀ e ∈ (serBlock ob tabAbc).ctTable, 1 ≤ e.2.length) ∧
      (serBlock ob tabAbc).olen ≤ ob ∧ (serBlock ob tabAbc).par.obMax = ob ∧
      (serBlock ob tabAbc).olen + (headerBits 32 (serBlock ob tabAbc).ctTable).length = 36 := by decide +kernel

/-- The empty table; and an empty codeword behind one entry, with the 3 + 9 + 7 bits before it fitting exactly and not. -/
theorem witness_HdrSerRefusesEmptyTablesAndCodewords :
    ((serBlock 1 []).olen ≤ 1 ∧ (serBlock 1 []).ctLegal = true ∧ (serBlock 1 []).ctTable = []) ∧
      ∀ ob ∈ [19, 18], (serBlock ob [(97, [true]), (98, [])]).status = .ready ∧
        (serBlock ob [(97, [true]), (98, [])]).ctLegal = true ∧
        (serBlock ob [(97, [true]), (98, [])]).ctTable = [(65, [true])] ++ (66, []) :: [] ∧
        0 + eoLen 2 + ([(65, [true])].flatMap (entryBits 32)).length + Config.symw = 19 := by decide +kernel

/-- The shortest and the longest codeword. -/
theorem witness_HeaderIsAtMost10843Bits : TableWf [(0, [true]), (94, binN 94 1)] := by decide +kernel

/-- The entries of HD10, not in ascending order, at bit 5. -/
theorem witness_HdrDesReadsTheHeaderAtPos :
    ∃ (s : State) (es : List (Nat × Bits)), s.status = .ready ∧ s.par.wf = true ∧ s.inlen ≤ s.par.inMax ∧ TableWf es ∧
      s.pos = 5 ∧ s.IbufHolds s.pos (headerBits s.par.symMin es) :=
  ⟨loaded 5 (binN 21 0b010110001010110000111), [(66, [false]), (65, [true])], rfl, rfl, by decide, by decide +kernel,
    rfl, by decide +kernel, by decide +kernel⟩

/-- After one entry and a declared count of 96: nothing more; six bits that begin no symbol; a new symbol with nothing of
its length, with an over-long length cut off, and with a codeword one bit short of CW_MAX. -/
theorem witness_HdrDesOfACutOffHeaderIsMalformedHeader :
    TableWf [(65, [true])] ∧ 96 < 2 ^ Config.defaultParams.valw ∧
      ∀ x ∈ [[], List.replicate 6 false, binN 7 98, binN 7 98 ++ (lengthGroups (2 ^ 100)).dropLast,
          binN 7 98 ++ (eoCode 94 ++ List.replicate 93 true)],
        CutOffEntry Config.defaultParams [(65, [true])] x ∧
          (loaded 5 (eoCode 96 ++ [(65, [true])].flatMap (entryBits 32) ++ x)).IbufEnds 5
            (eoCode 96 ++ [(65, [true])].flatMap (entryBits 32) ++ x) := by
  refine ⟨by decide, by decide, ?_⟩
  simp only [List.forall_mem_cons, List.not_mem_nil, false_implies, implies_true, and_true]
  exact ⟨⟨.inl (by decide), by decide +kernel⟩, ⟨.inl (by decide), by decide +kernel⟩,
    ⟨.inr ⟨66, [], by decide, by decide, by decide, .inl (cutOffCode_examples _ (by decide))⟩, by decide +kernel⟩,
    ⟨.inr ⟨66, _, by decide, by decide, rfl, .inl (cutOffCode_examples _ (by decide +kernel))⟩, by decide +kernel⟩,
    ⟨.inr ⟨66, _, by decide, by decide, rfl, .inr ⟨94, _, by decide, by decide, by decide, rfl⟩⟩, by decide +kernel⟩⟩

/-- The count cut off is the code of witness_EoDecFaultsOnCutOffAndOverlongCodes. -/
theorem witness_HdrDesOfACutOffHeaderIsMalformedHeader_count :
    CutOffCode 100 (lengthGroups (2 ^ 100)).dropLast ∧
      (loaded 5 (lengthGroups (2 ^ 100)).dropLast).IbufEnds 5 (lengthGroups (2 ^ 100)).dropLast ∧
      (loaded 5 []).par.eoMaxGroup = 100 :=
  ⟨cutOffCode_examples _ (by decide +kernel), by decide +kernel, rfl⟩

/-- The codes just outside the alphabet and the symbol of the entry before; after a new symbol a length of 95, and an
over-long group; and one in the count. -/
theorem witness_HdrDesFaultsOnABadEntry :
    TableWf [(65, [true])] ∧ 2 < 2 ^ Config.defaultParams.valw ∧
      (∀ v ∈ [31, 127, 97],
        v < 128 ∧ (Params.symOk Config.defaultParams v = false ∨ (32 ≤ v ∧ v - 32 ∈ [(65, [true])].map Prod.fst)) ∧
          (loaded 0 (eoCode 2 ++ [(65, [true])].flatMap (entryBits 32) ++ binN 7 v)).IbufHolds 0
            (eoCode 2 ++ [(65, [true])].flatMap (entryBits 32) ++ binN 7 v)) ∧
      Params.symOk Config.defaultParams 98 = true ∧ 98 - 32 ∉ [(65, [true])].map Prod.fst ∧
      (∀ x ∈ [eoCode 95, lengthGroups (2 ^ 100)],
        (loaded 0 (eoCode 2 ++ [(65, [true])].flatMap (entryBits 32) ++ binN 7 98 ++ x)).IbufHolds 0
          (eoCode 2 ++ [(65, [true])].flatMap (entryBits 32) ++ binN 7 98 ++ x)) ∧
      (loaded 0 (lengthGroups (2 ^ 100))).IbufHolds 0 (lengthGroups (2 ^ 100)) := by decide +kernel

/-- The header of `{a:1, b:00, c:01}`, read back at bit 5 where IBUF ends. -/
theorem witness_HeaderRoundTripRecoversTheTable :
    ∃ s t s' : State, s.status = .ready ∧ s.par.wf = true ∧ s.olen = 0 ∧ exec .hdrSer s = .next t ∧ t.status = .ready ∧
      s'.status = .ready ∧ s'.par.wf = true ∧ s'.par.symMin = s.par.symMin ∧ s'.inlen = s'.par.inMax ∧
      s'.pos + t.olen = s'.inlen ∧ ∀ i, i < t.olen → s'.inBit (s'.pos + i) = t.obufBit i :=
  ⟨{ State.reset with ct := ctFrom tabAbc }, _, withPar (caps 41 1 1 1) (loaded 5 headerAbc), rfl, rfl, rfl,
    next_after (by decide +kernel), by decide +kernel, rfl, by decide, rfl, by decide +kernel, by decide +kernel,
    by decide +kernel⟩

/-- A literal, and the largest match; two literal cells that differ in an ignored bit. -/
theorem witness_TokenCellReadsBackAsItsToken :
    (∀ t ∈ [a, .mtch (2 ^ 100 - 1) 1], Config.defaultParams.wf = true ∧ t.wf Config.defaultParams = true) ∧
      (2 ^ 200 + 97).testBit 200 = true ∧ (2 ^ 200 + 128 + 97).testBit 200 = true ∧
      (2 ^ 200 + 97) % 128 = (2 ^ 200 + 128 + 97) % 128 := by decide +kernel

theorem witness_TokenDecodingInvertsEncoding :
    Config.defaultParams.wf = true ∧ ([(65, [true]), (66, [false])].map Prod.fst).Nodup ∧
      PrefixFree [(65, [true]), (66, [false])] ∧
      ∀ c ∈ [(b, [true, false]), (.mtch 2 5, binN 10 0b0010000101)],
        c.1.wf Config.defaultParams = true ∧ encodeToken 32 [(65, [true]), (66, [false])] c.1 = some c.2 ∧
          inSeq (src c.2) 0 c.2.length = c.2 := by decide +kernel

/-- A block with OBUF of the given capacity, the table `{a:1, b:0}` and the given tokens. -/
def tokBlock (ob : Nat) (ts : List Token) : State :=
  withPar (caps 1 ob 1 3) { withTokens ts with ct := ctFrom tabAb }

/-- The 17 bits of TS1 into an OBUF of 17, and into one of 16. -/
theorem witness_TokSerAppendsTheBody :
    ∀ ob ∈ [17, 16], (tokBlock ob [a, b, .mtch 2 5]).ntok = 3 ∧ (tokBlock ob [a, b, .mtch 2 5]).ctLegal = true ∧
      (tokBlock ob [a, b, .mtch 2 5]).tokens = [a, b, .mtch 2 5] ∧
      (∀ t ∈ [a, b, .mtch 2 5], t.wf (tokBlock ob []).par = true) ∧ (expand [a, b, .mtch 2 5]).isSome = true ∧
      bodyBits 32 (tokBlock ob [a, b, .mtch 2 5]).ctTable [a, b, .mtch 2 5] = some bodyT1 ∧
      0 + bodyT1.length = 17 := by decide +kernel

/-- No token; and behind the literal a, with its 3 + 2 bits fitting exactly and not: a length 0, an offset beyond the
output, a literal without a codeword. -/
theorem witness_TokSerRefusesUnencodableTokens :
    (tokBlock 1 []).ntok = 0 ∧ (tokBlock 1 []).ctLegal = true ∧
      (∀ ob ∈ [5, 4], ∀ bad ∈ [Token.mtch 1 0, .mtch 2 1, .lit 99#7],
        (tokBlock ob [a, bad]).status = .ready ∧ (tokBlock ob [a, bad]).ntok ≤ 3 ∧
          (tokBlock ob [a, bad]).ctLegal = true ∧ (tokBlock ob [a, bad]).tokens = [a] ++ bad :: [] ∧
          tokensBits 32 (tokBlock ob [a, bad]).ctTable [a] = some [true, true] ∧
          (bad.wf (tokBlock ob []).par = false ∨ encodeToken 32 (tokBlock ob []).ctTable bad = none ∨
            expand ([a] ++ [bad]) = none)) ∧
      a.wf (tokBlock 5 []).par = true ∧ (expand [a]).isSome = true ∧ 0 + eoLen 2 + [true, true].length = 5 := by
  decide +kernel

/-- The 7 symbols of T1 into an OUT of 7. -/
theorem witness_TokDesOutputsTheExpansion :
    ∃ (s : State) (ts : List Token) (x : Bits) (syms : List Sym), s.status = .ready ∧ s.par.wf = true ∧
      s.inlen ≤ s.par.inMax ∧ s.ctLegal = true ∧ PrefixFree s.ctTable ∧ ts ≠ [] ∧ ts.length < 2 ^ s.par.valw ∧
      (∀ t ∈ ts, t.wf s.par = true) ∧ bodyBits s.par.symMin s.ctTable ts = some x ∧ s.IbufHolds s.pos x ∧
      expand ts = some syms ∧ syms.length = s.par.outMax :=
  ⟨withPar (caps 64 1 7 1) { loaded 5 bodyT1 with ct := ctFrom tabAb }, [a, b, .mtch 2 5], bodyT1,
    [97#7, 98#7, 97#7, 98#7, 97#7, 98#7, 97#7], rfl, by decide, by decide, by decide +kernel, by decide +kernel,
    by decide, by decide +kernel, by decide +kernel, by decide +kernel, by decide +kernel, by decide +kernel, rfl⟩

/-- Under `{a:1, b:0}` behind the three tokens of T1 and a count of 4: no flag; a literal without its codeword; a match
without its offset, with an over-long offset cut off, and with a length cut off before its last bit. -/
theorem witness_TokDesFaultsOnCutOffAndOverlongBodies :
    PrefixFree [(65, [true]), (66, [false])] ∧ expand [a, b, .mtch 2 5] = some [97#7, 98#7, 97#7, 98#7, 97#7, 98#7, 97#7] ∧
      tokensBits 32 [(65, [true]), (66, [false])] [a, b, .mtch 2 5] = some (bodyT1.drop 3) ∧
      ({ State.reset with ct := ctFrom tabAb } : State).ctTable = [(65, [true]), (66, [false])] ∧
      ∀ x ∈ [[], [true], [false], false :: (lengthGroups (2 ^ 100)).dropLast, false :: (eoCode 2 ++ (eoCode 9).dropLast)],
        CutOffToken Config.defaultParams [(65, [true]), (66, [false])] x ∧
          (loaded 5 (eoCode 4 ++ bodyT1.drop 3 ++ x)).IbufEnds 5 (eoCode 4 ++ bodyT1.drop 3 ++ x) := by
  refine ⟨by decide, by decide +kernel, by decide +kernel, by decide +kernel, ?_⟩
  simp only [List.forall_mem_cons, List.not_mem_nil, false_implies, implies_true, and_true]
  exact ⟨⟨.inl rfl, by decide +kernel⟩, ⟨.inr (.inl ⟨[], rfl, by decide⟩), by decide +kernel⟩,
    ⟨.inr (.inr (.inl ⟨[], rfl, cutOffCode_examples _ (by decide)⟩)), by decide +kernel⟩,
    ⟨.inr (.inr (.inl ⟨_, rfl, cutOffCode_examples _ (by decide +kernel)⟩)), by decide +kernel⟩,
    ⟨.inr (.inr (.inr ⟨2, _, by decide, by decide, rfl, cutOffCode_examples _ (by decide +kernel)⟩)), by decide +kernel⟩⟩

/-- The count cut off: POS beyond INLEN, and a code cut off in its length groups. -/
theorem witness_TokDesFaultsOnCutOffAndOverlongBodies_count :
    ({ loaded 0 [] with pos := 3 } : State).IbufEnds 3 [] ∧
      (loaded 5 (lengthGroups (2 ^ 100)).dropLast).IbufEnds 5 (lengthGroups (2 ^ 100)).dropLast ∧
      CutOffCode 100 [] ∧ CutOffCode 100 (lengthGroups (2 ^ 100)).dropLast :=
  ⟨by decide, by decide +kernel, cutOffCode_examples _ (by decide), cutOffCode_examples _ (by decide +kernel)⟩

/-- An over-long group in the count, and behind the three tokens of T1 in an offset and in a length. -/
theorem witness_TokDesFaultsOnCutOffAndOverlongBodies_groups :
    ∀ x ∈ [lengthGroups (2 ^ 100), eoCode 4 ++ bodyT1.drop 3 ++ false :: lengthGroups (2 ^ 100),
        eoCode 4 ++ bodyT1.drop 3 ++ false :: (eoCode 2 ++ lengthGroups (2 ^ 100))],
      (loaded 5 x).IbufHolds 5 x := by decide +kernel

/-- A body that decodes, and one whose second token is cut off. -/
theorem witness_TokDesIsTheRunOfItsTokens :
    ∀ c ∈ [(bodyT1, Status.ready), (bodyT1.take 6, .fault)],
      ({ loaded 0 c.1 with ct := ctFrom tabAb } : State).status = .ready ∧
        ({ loaded 0 c.1 with ct := ctFrom tabAb } : State).script = [] ∧
        ({ loaded 0 c.1 with ct := ctFrom tabAb } : State).inlen ≤ Config.defaultParams.inMax ∧
        ({ loaded 0 c.1 with ct := ctFrom tabAb } : State).ctLegal = true ∧
        ({ loaded 0 c.1 with ct := ctFrom tabAb } : State).eoDecode 0 = .value 3 3 ∧
        (after (exec .tokDes { loaded 0 c.1 with ct := ctFrom tabAb })).status = c.2 := by decide +kernel

/-- R220's example with room for one symbol. -/
theorem witness_LitAppendsTheUniqueMatch :
    ∃ (s : State) (k : Nat) (cw : Bits), codewordMatches s.ctTable s.inBit s.inlen s.cur = [(k, cw)] ∧
      s.outlen + 1 = s.par.outMax :=
  ⟨withPar (caps 64 1 1 1) { loaded 0 [false, true, true] with ct := ctFrom tabAbc }, 67, [false, true],
    by decide +kernel, rfl⟩

/-- No match, two matches, and one with OUT full. -/
theorem witness_LitFaultsWithoutAUniqueMatch :
    (∀ tab ∈ [[], [(97, [false]), (98, [false, true])]],
      (codewordMatches ({ loaded 0 [false, true] with ct := ctFrom tab } : State).ctTable (loaded 0 [false, true]).inBit 2
        0).length ≠ 1) ∧
      ∃ s : State, (codewordMatches s.ctTable s.inBit s.inlen s.cur).length = 1 ∧ s.outlen = s.par.outMax :=
  ⟨by decide +kernel,
    ⟨withPar (caps 64 1 1 1) { loaded 0 [false, true] with ct := ctFrom tabAbc, outlen := 1 }, by decide +kernel, rfl⟩⟩

/-- An overlapping copy from the first symbol on, into the last free cell of OUT. -/
theorem witness_MatchCopiesPeriodically :
    ∃ (s : State) (o l : Nat), s.par.wf = true ∧ 1 ≤ o ∧ o < 2 ^ s.par.valw ∧ o < l ∧ l < 2 ^ s.par.valw ∧
      s.IbufHolds s.cur (eoCode o ++ eoCode l) ∧ o = s.outlen ∧ s.outlen + l = s.par.outMax :=
  ⟨withPar (caps 64 1 7 1) { loaded 0 (binN 9 0b010000101) with out := [(0, 97#7), (1, 98#7)], outlen := 2 }, 2, 5,
    by decide, by decide, by decide +kernel, by decide, by decide +kernel, ⟨by decide +kernel, by decide +kernel⟩, rfl,
    by decide⟩

/-- An offset one beyond the output, and a copy one symbol too long. -/
theorem witness_MatchFaultsOnBadOperands :
    ∀ n ∈ [1, 2],
      (caps 64 1 6 1).wf = true ∧
        (withPar (caps 64 1 6 1) { loaded 0 (binN 9 0b010000101) with outlen := n }).IbufHolds 0
          (eoCode 2 ++ eoCode 5) ∧
        (n + 1 = 2 ∨ (2 ≤ n ∧ 6 + 1 = n + 5)) := by decide +kernel

/-- The codes cut off of cutOffCode_examples as an offset and, after the offset 2, as a length; an over-long group in
each. -/
theorem witness_MatchFaultsOnBadOperands_codes :
    (∀ b ∈ [[], (eoCode 9).dropLast, (lengthGroups (2 ^ 100)).dropLast],
      (loaded 0 b).IbufEnds 0 b ∧ (loaded 0 (eoCode 2 ++ b)).IbufEnds 0 (eoCode 2 ++ b)) ∧
      (loaded 0 (lengthGroups (2 ^ 100))).IbufHolds 0 (lengthGroups (2 ^ 100)) ∧
      (loaded 0 (eoCode 2 ++ lengthGroups (2 ^ 100))).IbufHolds 0 (eoCode 2 ++ lengthGroups (2 ^ 100)) := by
  decide +kernel

/-- Two blocks that differ in what the operation does not read. -/
theorem witness_OperationsDependOnlyOnWhatTheyRead :
    (∀ c ∈ [(Instr.tokDes, bodyT1, tabAb), (.decode, headerAb ++ bodyT1, []), (.eoDec, bodyT1, [])],
      isNext (exec c.1 { loaded 0 c.2.1 with ct := ctFrom c.2.2 }) = true ∧
        isNext (exec c.1 { loaded 0 c.2.1 with ct := ctFrom c.2.2, outlen := 3, out := [(0, 99#7)], val := 8 }) = true ∧
        (after (exec c.1 { loaded 0 c.2.1 with ct := ctFrom c.2.2 })).status = .ready) ∧
      SameRead .decode (loaded 0 headerAb) { loaded 0 headerAb with ct := ctFrom tabAb, outlen := 3, val := 8 } ∧
      SameRead .hdrSer { State.reset with ct := ctFrom tabAb } { State.reset with ct := ctFrom tabAb, pos := 4 } :=
  ⟨by decide +kernel, by unfold SameRead; decide +kernel, by unfold SameRead; decide +kernel⟩

/-- Counts a 4, b 3 and the tokens of T1. -/
def p2 : State := withCounts [(97, 4), (98, 3)] (withTokens [a, b, .mtch 2 5])

/-- Both sides of the first equivalence hold of this block; one with no count faults in its first part. -/
theorem witness_EncodeIsItsThreeCommands :
    (p2.status = .ready ∧ p2.olen ≤ p2.par.obMax ∧ p2.ntok ≤ p2.par.tokMax ∧ isNext (exec .encode p2) = true ∧
      (after (exec .encode p2)).status = .ready ∧
      after (exec .tokSer (after (exec .hdrSer (after (exec .hufBuild p2))))) = after (exec .encode p2)) ∧
      (after (exec .encode State.reset)).err = .invalidInput ∧
      (after (exec .hufBuild State.reset)).err = .invalidInput := by
  decide +kernel

/-- An exact fit. -/
theorem witness_EncodeWritesTableHeaderAndBody :
    ∃ s : State, s.status = .ready ∧ s.ntok ≤ s.par.tokMax ∧ 1 ≤ s.ntok ∧
      (∃ j k, j < k ∧ k < Config.nsym ∧ s.freqCell j ≠ 0 ∧ s.freqCell k ≠ 0) ∧
      (∀ t ∈ s.tokens, t.wf s.par = true) ∧ (expand s.tokens).isSome = true ∧
      (∀ v, Token.lit v ∈ s.tokens → s.freqCell (v.toNat - s.par.symMin) ≠ 0) ∧
      s.olen + s.encodeBound = s.par.obMax :=
  ⟨withPar (caps 1 11046 1 3) p2, rfl, by decide, by decide, ⟨65, 66, by decide, by decide, by decide +kernel,
    by decide +kernel⟩, by decide +kernel, by decide +kernel, by decide +kernel, by decide +kernel⟩

/-- The stream of P2 at bit 5. -/
def p2Stream : State := loaded 5 (headerAb ++ bodyT1)

/-- Both sides of the equivalence hold of this block. -/
theorem witness_DecodeIsHeaderThenBody :
    p2Stream.status = .ready ∧ p2Stream.inlen ≤ p2Stream.par.inMax ∧ isNext (exec .decode p2Stream) = true ∧
      (after (exec .decode p2Stream)).status = .ready ∧
      (after (exec .hdrDes p2Stream)).nbits = 21 ∧
      (((after (exec .tokDes ((after (exec .hdrDes p2Stream)).setPos 26))).setPos 5).setNbits 38) =
        after (exec .decode p2Stream) := by decide +kernel

/-- A stream whose body is cut off: the fault is the second part's. -/
theorem witness_DecodeIsHeaderThenBody_fault :
    (after (exec .decode { p2Stream with inlen := 30 })).err = .malformedToken ∧
      (after (exec .hdrDes { p2Stream with inlen := 30 })).status = .ready ∧
      (after (exec .tokDes ((after (exec .hdrDes { p2Stream with inlen := 30 })).setPos 26))).err = .malformedToken := by
  decide +kernel

theorem witness_DecodeReadsTheStreamAtPos :
    ∃ (s : State) (es : List (Nat × Bits)) (ts : List Token) (x : Bits) (syms : List Sym), s.status = .ready ∧
      s.par.wf = true ∧ s.inlen = s.par.inMax ∧ TableWf es ∧ PrefixFree es ∧ ts ≠ [] ∧ ts.length < 2 ^ s.par.valw ∧
      (∀ t ∈ ts, t.wf s.par = true) ∧ bodyBits s.par.symMin es ts = some x ∧
      s.IbufHolds s.pos (headerBits s.par.symMin es ++ x) ∧ expand ts = some syms ∧ syms.length = s.par.outMax :=
  ⟨withPar (caps 43 1 7 1) p2Stream, [(65, [true]), (66, [false])], [a, b, .mtch 2 5], bodyT1,
    [97#7, 98#7, 97#7, 98#7, 97#7, 98#7, 97#7], rfl, by decide, by decide +kernel, by decide +kernel, by decide +kernel,
    by decide, by decide +kernel, by decide +kernel, by decide +kernel, by decide +kernel, by decide +kernel, rfl⟩

theorem witness_StreamRoundTrip :
    ∃ (s t s' : State) (syms : List Sym), s.status = .ready ∧ s.par.wf = true ∧ s.olen = 0 ∧
      s.ntok < 2 ^ s.par.eoMaxGroup ∧ expand s.tokens = some syms ∧ exec .encode s = .next t ∧ t.status = .ready ∧
      s'.status = .ready ∧ s'.par.eoMaxGroup = s.par.eoMaxGroup ∧ s'.par.symMin = s.par.symMin ∧
      s'.inlen ≤ s'.par.inMax ∧ s'.pos + t.olen = s'.inlen ∧
      (∀ i, i < t.olen → s'.inBit (s'.pos + i) = t.obufBit i) ∧ syms.length ≤ s'.par.outMax :=
  ⟨p2, _, p2Stream, [97#7, 98#7, 97#7, 98#7, 97#7, 98#7, 97#7], rfl, rfl, rfl, by decide +kernel, by decide +kernel,
    next_after (by decide +kernel), by decide +kernel, rfl, rfl, rfl, by decide, by decide +kernel, by decide +kernel,
    by decide⟩

/-! ## The host port where a cell or a value is open -/

/-- R281, V4: in FAULT a read of POS is refused. -/
theorem test_fault_refuses_other_reads : step (scripted [.rdReg .pos] faulted) = .refused .hostReadInFault := rfl

/-- R38: in FAULT a write to a cell that does not exist is ignored like any other. -/
theorem test_fault_ignores_a_missing_cell : step (scripted [.wrFreq 95 1] faulted) = .next (scripted [] faulted) := rfl

/-- R47: LEN and BITS of an invalid entry read alike before and after a read of CMD and a write to another entry. -/
theorem test_invalid_entry_is_stable :
    (after (step (scripted [.rdCt 3] (after (step (scripted [.wrCt 4 true 1 0] (after (step (scripted [.rdReg .cmd]
      State.reset))))))))).rdata = (after (step (scripted [.rdCt 3] State.reset))).rdata := rfl

end Sys2Proof.Tests
end

section
/-! SUPPORT. What every part of an operation can do, said once: what it writes, the bounds it keeps, and that the kind
it raises is never the code 0. The statements on the invariant and on the access table are read off from it. -/

namespace Sys2Proof

/-! ## Reading a bit source stays inside it -/

theorem inBits_lt (bit : Nat → Bool) (c n : Nat) : inBits bit c n < 2 ^ n := by
  simpa [inBits] using val_lt (inSeq bit c n)

/-- The code of a decoded integer ends inside the source. The integer fits the longest group, since a group's length is
tested before the group is read; only the first group, of 1 bit, needs the bound to be given (R146, R147). -/
theorem eoDecodeLoop_value {maxGroup len p fuel r c n k : Nat} {bit : Nat → Bool} (hp : p ≤ c)
    (h : eoDecodeLoop maxGroup bit len p fuel r c = .value n k) : (r ≤ maxGroup → n < 2 ^ maxGroup) ∧ p + k ≤ len := by
  induction fuel generalizing r c with
  | zero => simp [eoDecodeLoop] at h
  | succ fuel ih =>
    unfold eoDecodeLoop at h
    dsimp only at h
    split_ifs at h with havail hflag
    · obtain ⟨rfl, rfl⟩ := EORes.value.inj h
      have hend : c + r ≤ len := avail_iff.1 (by simpa using havail)
      exact ⟨fun hr => (inBits_lt bit c r).trans_le (Nat.pow_le_pow_right (by decide) hr), by omega⟩
    · obtain ⟨hn, hend⟩ := ih (by omega) h
      exact ⟨fun _ => hn (by omega), hend⟩

theorem eoDecode_end_le {maxGroup len p n k : Nat} {bit : Nat → Bool}
    (h : eoDecode maxGroup bit len p = .value n k) : p + k ≤ len :=
  (eoDecodeLoop_value le_rfl h).2

theorem eoDecode_lt {maxGroup len p n k : Nat} {bit : Nat → Bool} (hm : 1 ≤ maxGroup)
    (h : eoDecode maxGroup bit len p = .value n k) : n < 2 ^ maxGroup :=
  (eoDecodeLoop_value le_rfl h).1 hm

theorem codewordMatches_fits {table : List (Nat × Bits)} {bit : Nat → Bool} {len cur : Nat} {e : Nat × Bits}
    (h : e ∈ codewordMatches table bit len cur) : cur + e.2.length ≤ len := by
  simp only [codewordMatches, List.mem_filter, Bool.and_eq_true] at h
  exact avail_iff.1 h.2.1

theorem Params.seven_le_valw {p : Params} (h : p.wf = true) : 7 ≤ p.valw := by
  simp only [Params.wf, Bool.and_eq_true, decide_eq_true_eq] at h
  exact h.1.2

/-! ## The capacities fit the registers (R8) -/

theorem Params.capacity_lt_two_pow_curw (p : Params) : max (max p.inMax p.obMax) (max p.outMax p.tokMax) < 2 ^ p.curw :=
  Nat.lt_log2_self

theorem Params.obMax_lt_two_pow_curw (p : Params) : p.obMax < 2 ^ p.curw := by
  have := p.capacity_lt_two_pow_curw
  omega

theorem Params.outMax_lt_two_pow_curw (p : Params) : p.outMax < 2 ^ p.curw := by
  have := p.capacity_lt_two_pow_curw
  omega

theorem Params.entry_lt_nsym {p : Params} {s : Nat} (h : p.symOk s = true) : s - p.symMin < Config.nsym := by
  simp only [Params.symOk, Bool.and_eq_true, decide_eq_true_eq] at h
  simp only [Params.symMax, Config.nsym] at h ⊢
  omega

end Sys2Proof

namespace Sys2Proof.Machine

/-! ## How a part of an operation can end -/

/-- A part of an operation ends with a result of which `P` holds, or raises a kind, never the code 0 (R34, R270). -/
def Ends {α : Type} (P : α → Prop) : Except ErrKind α → Prop
  | .ok a => P a
  | .error k => k ≠ .none

@[simp] theorem ends_ok {α : Type} {P : α → Prop} {a : α} : Ends P (.ok a) ↔ P a := Iff.rfl

@[simp] theorem ends_error {α : Type} {P : α → Prop} {k : ErrKind} : Ends P (.error k) ↔ k ≠ .none := Iff.rfl

theorem Ends.of_ok {α : Type} {P : α → Prop} {r : Except ErrKind α} {a : α} (h : Ends P r) (hr : r = .ok a) : P a := by
  subst hr
  exact h

theorem Ends.of_error {α : Type} {P : α → Prop} {r : Except ErrKind α} {k : ErrKind} (h : Ends P r)
    (hr : r = .error k) : k ≠ .none := by
  subst hr
  exact h

theorem Ends.mono {α : Type} {P Q : α → Prop} {r : Except ErrKind α} (h : Ends P r)
    (hPQ : ∀ a, P a → Q a) : Ends Q r := by
  cases r with
  | ok a => exact hPQ a h
  | error k => exact h

/-! ## Encoding writes OBUF and OLEN -/

/-- From `s` to `t` bits were appended to OBUF, and nothing else was written (R79). -/
def Emitted (s t : State) : Prop :=
  ∃ m n, t = { s with obuf := m, olen := n } ∧ (s.olen < 2 ^ s.par.curw → n < 2 ^ s.par.curw) ∧
    (s.obuf.wf s.par.obMax = true → m.wf s.par.obMax = true)

theorem Emitted.refl (s : State) : Emitted s s := ⟨s.obuf, s.olen, rfl, id, id⟩

theorem Emitted.trans {s t u : State} (h : Emitted s t) (h' : Emitted t u) : Emitted s u := by
  obtain ⟨m, n, rfl, hn, hm⟩ := h
  obtain ⟨m', n', rfl, hn', hm'⟩ := h'
  exact ⟨m', n', rfl, hn' ∘ hn, hm' ∘ hm⟩

theorem emit_ends (s : State) (b : Bits) : Ends (Emitted s) (emit s b) := by
  rw [emit_eq]
  split_ifs with h
  · exact ⟨_, _, rfl, fun _ => h.trans_lt s.par.obMax_lt_two_pow_curw, fun hm => Mem.wf_writeSeq hm h⟩
  · simp

theorem eoEmit_ends (s : State) (n : Nat) : Ends (Emitted s) (eoEmit s n) := by
  unfold eoEmit
  split_ifs
  · simp
  · exact emit_ends s _

theorem serEntry_ends (s : State) (k : Nat) (e : CtCell) : Ends (Emitted s) (serEntry s k e) := by
  unfold serEntry
  match emit s _, emit_ends s (binN Config.symw (s.par.symMin + k)) with
  | .error _, hx => exact hx
  | .ok s1, h1 =>
    dsimp only
    match eoEmit s1 _, eoEmit_ends s1 e.len.toNat with
    | .error _, hx => exact hx
    | .ok s2, h2 => exact (emit_ends s2 _).mono fun _ => (h1.trans h2).trans

theorem serEntries_ends (ks : List Nat) (s : State) : Ends (Emitted s) (serEntries ks s) := by
  induction ks generalizing s with
  | nil => exact Emitted.refl s
  | cons k ks ih =>
    unfold serEntries
    cases s.ctEntry k with
    | none => exact ih s
    | some e =>
      dsimp only
      match serEntry s k e, serEntry_ends s k e with
      | .error _, hx => exact hx
      | .ok t, ht => exact (ih t).mono fun _ => ht.trans

theorem hdrSer_ends (s : State) : Ends (Emitted s) (hdrSer s) := by
  unfold hdrSer
  match eoEmit s _, eoEmit_ends s (ctCount s) with
  | .error _, hx => exact hx
  | .ok t, ht => exact (serEntries_ends _ t).mono fun _ => ht.trans

theorem serLit_ends (s : State) (v : Sym) : Ends (Emitted s) (serLit s v) := by
  unfold serLit
  split_ifs
  · simp
  · cases s.ctEntry (v.toNat - s.par.symMin) with
    | none => simp
    | some e => exact emit_ends s _

theorem serMatch_ends (s : State) (o l produced : Nat) : Ends (Emitted s) (serMatch s o l produced) := by
  unfold serMatch
  split_ifs
  · simp
  · simp
  · match emit s _, emit_ends s [false] with
    | .error _, hx => exact hx
    | .ok s1, h1 =>
      dsimp only
      match eoEmit s1 _, eoEmit_ends s1 o with
      | .error _, hx => exact hx
      | .ok s2, h2 => exact (eoEmit_ends s2 l).mono fun _ => (h1.trans h2).trans

theorem serTokens_ends (n i produced : Nat) (s : State) : Ends (Emitted s) (serTokens n i produced s) := by
  induction n generalizing i produced s with
  | zero => exact Emitted.refl s
  | succ n ih =>
    unfold serTokens
    cases s.tokAt i with
    | lit v =>
      dsimp only
      match serLit s v, serLit_ends s v with
      | .error _, hx => exact hx
      | .ok t, ht => exact (ih _ _ t).mono fun _ => ht.trans
    | mtch o l =>
      dsimp only
      match serMatch s o l produced, serMatch_ends s o l produced with
      | .error _, hx => exact hx
      | .ok t, ht => exact (ih _ _ t).mono fun _ => ht.trans

theorem tokSer_ends (s : State) : Ends (Emitted s) (tokSer s) := by
  unfold tokSer
  match eoEmit s _, eoEmit_ends s s.ntok with
  | .error _, hx => exact hx
  | .ok t, ht => exact (serTokens_ends _ _ _ t).mono fun _ => ht.trans

/-! ## Building a table writes CT -/

/-- Every leaf of the tree names an entry number below `n`. -/
def Node.LeavesBelow (n : Nat) : Node → Prop
  | .leaf k _ => k < n
  | .internal l r _ => l.LeavesBelow n ∧ r.LeavesBelow n

theorem mem_insertDescending {x y : Node} {w : List Node} : y ∈ insertDescending x w ↔ y = x ∨ y ∈ w := by
  induction w with
  | nil => simp [insertDescending]
  | cons z w ih =>
    unfold insertDescending
    split_ifs
    · simp
    · simp only [List.mem_cons, ih]
      tauto

theorem mem_stableSortDescending {y : Node} {w : List Node} : y ∈ stableSortDescending w ↔ y ∈ w := by
  induction w with
  | nil => simp [stableSortDescending]
  | cons x w ih => simp [stableSortDescending, mem_insertDescending, ih]

theorem mergeStep_leavesBelow {n : Nat} {w : List Node} (h : ∀ x ∈ w, x.LeavesBelow n) :
    ∀ x ∈ mergeStep w, x.LeavesBelow n := by
  unfold mergeStep
  split
  · next a b rest hw =>
    have hsorted : ∀ x ∈ a :: b :: rest, x.LeavesBelow n := fun x hx =>
      h x (mem_stableSortDescending.1 (List.mem_reverse.1 (hw ▸ hx)))
    simp only [List.mem_append, List.mem_reverse, List.mem_singleton]
    rintro x (hx | rfl)
    · exact hsorted x (by simp [hx])
    · exact ⟨hsorted a (by simp), hsorted b (by simp)⟩
  · exact h

theorem buildTree_leavesBelow {n fuel : Nat} {w : List Node} {root : Node} (h : ∀ x ∈ w, x.LeavesBelow n)
    (hroot : buildTree fuel w = some root) : root.LeavesBelow n := by
  induction fuel generalizing w with
  | zero => exact h root (List.mem_of_head? hroot)
  | succ fuel ih =>
    unfold buildTree at hroot
    split_ifs at hroot
    · exact h root (List.mem_of_head? hroot)
    · exact ih (mergeStep_leavesBelow h) hroot

theorem initialLeaves_leavesBelow (s : State) : ∀ x ∈ initialLeaves s, x.LeavesBelow Config.nsym := by
  simp only [initialLeaves, List.mem_filterMap, List.mem_range]
  rintro x ⟨k, hk, hx⟩
  split_ifs at hx
  cases hx
  exact hk

theorem Node.assign_lt {n : Nat} {root : Node} {cw : Bits} (h : root.LeavesBelow n) :
    ∀ e ∈ root.assign cw, e.1 < n := by
  induction root generalizing cw with
  | leaf k f => simpa [Node.assign, Node.LeavesBelow] using h
  | internal l r f ihl ihr =>
    simp only [Node.assign, List.mem_append]
    rintro e (he | he)
    · exact ihl h.1 e he
    · exact ihr h.2 e he

theorem ctOf_wf {n : Nat} {es : List (Nat × Bits)} (h : ∀ e ∈ es, e.1 < n) : (ctOf es).wf n = true :=
  List.foldlRecOn (motive := fun m => Mem.wf m n = true) es _ (Mem.wf_nil n)
    fun _ hm e he => Mem.wf_write hm (h e he)

/-- `HufBuild` makes CT anew and writes nothing else (R173). -/
theorem hufBuild_ends (s : State) :
    Ends (fun t => ∃ m, t = s.replaceCt m ∧ m.wf Config.nsym = true) (hufBuild s) := by
  unfold hufBuild
  cases hroot : buildTree (initialLeaves s).length (initialLeaves s) with
  | none => simp
  | some root =>
    exact ⟨_, rfl, ctOf_wf (Node.assign_lt (buildTree_leavesBelow (initialLeaves_leavesBelow s) hroot))⟩

/-! ## Reading a header writes CT and moves the cursor -/

/-- From `s` to `t` CT entries were written and the cursor moved inside the data, and nothing else was written. -/
def Parsed (s t : State) : Prop :=
  ∃ m c, t = { s with ct := m, cur := c } ∧ (s.ct.wf Config.nsym = true → m.wf Config.nsym = true) ∧
    (s.cur ≤ s.inlen → c ≤ s.inlen)

theorem Parsed.refl (s : State) : Parsed s s := ⟨s.ct, s.cur, rfl, id, id⟩

theorem Parsed.trans {s t u : State} (h : Parsed s t) (h' : Parsed t u) : Parsed s u := by
  obtain ⟨m, c, rfl, hm, hc⟩ := h
  obtain ⟨m', c', rfl, hm', hc'⟩ := h'
  exact ⟨m', c', rfl, hm' ∘ hm, hc' ∘ hc⟩

theorem headerInt_ends (s : State) :
    Ends (fun r => ∃ c, r.2 = s.setCur c ∧ c ≤ s.inlen) (headerInt s) := by
  unfold headerInt
  cases h : s.eoDecode s.cur with
  | value n k => exact ⟨_, rfl, eoDecode_end_le h⟩
  | truncated => simp
  | boundsExceeded => simp

theorem desCodeword_ends (s : State) {k : Nat} (l : Nat) (hk : k < Config.nsym) :
    Ends (Parsed s) (desCodeword s k l) := by
  unfold desCodeword
  split_ifs with hlen havail
  · simp
  · simp
  · exact ⟨_, _, rfl, fun hm => Mem.wf_write hm hk, fun _ => avail_iff.1 (by simpa [State.avail] using havail)⟩

theorem desEntry_ends (s : State) : Ends (Parsed s) (desEntry s) := by
  unfold desEntry
  dsimp only
  split_ifs with havail hsym hdup
  · simp
  · simp
  · simp
  · match headerInt _, headerInt_ends (s.setCur (s.cur + Config.symw)) with
    | .error _, hx => exact hx
    | .ok (l, s2), ⟨c, hs2, hc⟩ =>
      obtain rfl : s2 = s.setCur c := hs2
      have hcur : Parsed s (s.setCur c) := ⟨s.ct, c, rfl, id, fun _ => hc⟩
      exact (desCodeword_ends _ l (Params.entry_lt_nsym (by simpa using hsym))).mono fun _ => hcur.trans

theorem desEntries_ends (n : Nat) (s : State) : Ends (Parsed s) (desEntries n s) := by
  induction n generalizing s with
  | zero => exact Parsed.refl s
  | succ n ih =>
    unfold desEntries
    match desEntry s, desEntry_ends s with
    | .error _, hx => exact hx
    | .ok t, ht => exact (ih t).mono fun _ => ht.trans

/-- `HdrDes` makes CT anew and leaves the cursor inside the data (R195). -/
theorem hdrDes_ends (s : State) (p : Nat) :
    Ends (fun t => ∃ m c, t = (s.replaceCt m).setCur c ∧ m.wf Config.nsym = true ∧ c ≤ s.inlen) (hdrDes s p) := by
  unfold hdrDes
  match headerInt _, headerInt_ends ((s.replaceCt []).setCur p) with
  | .error _, hx => exact hx
  | .ok (n, s1), ⟨c, hs1, hc⟩ =>
    obtain rfl : s1 = (s.replaceCt []).setCur c := hs1
    dsimp only
    refine (desEntries_ends n ((s.replaceCt []).setCur c)).mono ?_
    rintro _ ⟨m, c', rfl, hm, hc'⟩
    exact ⟨m, c', rfl, hm (Mem.wf_nil _), hc' hc⟩

/-! ## Reading tokens writes OUT and OUTLEN and moves the cursor -/

/-- From `s` to `t` symbols were written to OUT and the cursor moved inside the data, and nothing else was written. -/
def Expanded (s t : State) : Prop :=
  ∃ m n c, t = { s with out := m, outlen := n, cur := c } ∧ (s.out.wf s.par.outMax = true → m.wf s.par.outMax = true) ∧
    (s.outlen ≤ s.par.outMax → n ≤ s.par.outMax) ∧ (s.cur ≤ s.inlen → c ≤ s.inlen)

theorem Expanded.refl (s : State) : Expanded s s := ⟨s.out, s.outlen, s.cur, rfl, id, id, id⟩

theorem Expanded.trans {s t u : State} (h : Expanded s t) (h' : Expanded t u) : Expanded s u := by
  obtain ⟨m, n, c, rfl, hm, hn, hc⟩ := h
  obtain ⟨m', n', c', rfl, hm', hn', hc'⟩ := h'
  exact ⟨m', n', c', rfl, hm' ∘ hm, hn' ∘ hn, hc' ∘ hc⟩

theorem expanded_setCur {s : State} {c : Nat} (hc : c ≤ s.inlen) : Expanded s (s.setCur c) :=
  ⟨s.out, s.outlen, c, rfl, id, id, fun _ => hc⟩

theorem readLit_ends (symMin : Nat) (table : List (Nat × Bits)) (bit : Nat → Bool) (len cur : Nat) :
    Ends (fun r => cur + r.2 ≤ len) (readLit symMin table bit len cur) := by
  unfold readLit
  split
  · simp
  · next k cw h =>
    have hmem : (k, cw) ∈ codewordMatches table bit len cur := by simp [h]
    exact codewordMatches_fits hmem
  · simp

theorem readMatchInt_ends (maxGroup : Nat) (bit : Nat → Bool) (len cur : Nat) :
    Ends (fun r => cur + r.2 ≤ len) (readMatchInt maxGroup bit len cur) := by
  unfold readMatchInt
  cases h : Sys2Proof.eoDecode maxGroup bit len cur with
  | value n k => exact eoDecode_end_le h
  | truncated => simp
  | boundsExceeded => simp

theorem readMatch_ends (maxGroup : Nat) (bit : Nat → Bool) (len cur : Nat) :
    Ends (fun r => cur + r.2.2 ≤ len) (readMatch maxGroup bit len cur) := by
  unfold readMatch
  match readMatchInt _ _ _ _, readMatchInt_ends _ bit len cur with
  | .error _, hx => exact hx
  | .ok (o, k), _ =>
    dsimp only
    match readMatchInt _ _ _ _, readMatchInt_ends _ bit len (cur + k) with
    | .error _, hx => exact hx
    | .ok (l, k'), h =>
      have hend : cur + k + k' ≤ len := h
      show cur + (k + k') ≤ len
      omega

theorem expanded_pushOut {s : State} (v : Sym) (h : s.outlen < s.par.outMax) : Expanded s (s.pushOut v) :=
  ⟨_, _, _, rfl, fun hm => Mem.wf_write hm h, fun _ => h, id⟩

theorem symAppend_ends (s : State) (v : Sym) : Ends (Expanded s) (symAppend s v) := by
  unfold symAppend
  split_ifs with h
  · simp
  · exact expanded_pushOut v (by omega)

theorem copyLoop_expanded {n : Nat} (a : Nat) {s : State} (h : s.outlen + n ≤ s.par.outMax) :
    Expanded s (copyLoop n a s) := by
  induction n generalizing a s with
  | zero => exact Expanded.refl s
  | succ n ih =>
    refine (expanded_pushOut _ (by omega)).trans (ih _ ?_)
    simp
    omega

theorem copyBack_ends (s : State) (o l : Nat) : Ends (Expanded s) (copyBack s o l) := by
  unfold copyBack
  split_ifs with ho hl
  · simp
  · simp
  · exact copyLoop_expanded _ (by omega)

theorem Expanded.setCur {s t : State} {c : Nat} (h : Expanded s t) (hc : c ≤ s.inlen) : Expanded s (t.setCur c) := by
  obtain ⟨m, n, c', rfl, hm, hn, -⟩ := h
  exact ⟨m, n, c, rfl, hm, hn, fun _ => hc⟩

theorem litBody_ends (s : State) : Ends (Expanded s) (litBody s) := by
  unfold litBody
  match readLit _ _ _ _ _, readLit_ends s.par.symMin s.ctTable s.inBit s.inlen s.cur with
  | .error _, hx => exact hx
  | .ok (v, k), hk =>
    dsimp only
    match symAppend s v, symAppend_ends s v with
    | .error _, hx => exact hx
    | .ok t, ht => exact ht.setCur hk

theorem matchBody_ends (s : State) : Ends (Expanded s) (matchBody s) := by
  unfold matchBody
  match readMatch _ _ _ _, readMatch_ends _ s.inBit s.inlen s.cur with
  | .error _, hx => exact hx
  | .ok (o, l, k), hk =>
    dsimp only
    match copyBack s o l, copyBack_ends s o l with
    | .error _, hx => exact hx
    | .ok t, ht => exact ht.setCur hk

theorem tokenPass_ends (s : State) : Ends (Expanded s) (tokenPass s) := by
  unfold tokenPass
  split_ifs with havail hflag
  · simp
  all_goals
    have hcur : Expanded s (s.setCur (s.cur + 1)) := expanded_setCur (avail_iff.1 (by simpa [State.avail] using havail))
  · exact (litBody_ends _).mono fun _ => hcur.trans
  · exact (matchBody_ends (s.setCur (s.cur + 1))).mono fun _ => hcur.trans

theorem tokenLoop_ends (n : Nat) (s : State) : Ends (Expanded s) (tokenLoop n s) := by
  induction n generalizing s with
  | zero => exact Expanded.refl s
  | succ n ih =>
    unfold tokenLoop
    match tokenPass s, tokenPass_ends s with
    | .error _, hx => exact hx
    | .ok t, ht => exact (ih t).mono fun _ => ht.trans

/-- `TokDes` writes OUT and leaves the cursor inside the data, wherever it stood before (R218). -/
theorem tokDes_ends (s : State) (p : Nat) :
    Ends (fun t => Expanded s t ∧ t.cur ≤ s.inlen) (tokDes s p) := by
  unfold tokDes
  cases h : s.eoDecode p with
  | truncated => simp
  | boundsExceeded => simp
  | value n k =>
    have hend : p + k ≤ s.inlen := eoDecode_end_le h
    have hstart : Expanded s ((s.setOutlen 0).setCur (p + k)) :=
      ⟨s.out, 0, p + k, rfl, id, fun _ => Nat.zero_le _, fun _ => hend⟩
    refine (tokenLoop_ends n ((s.setOutlen 0).setCur (p + k))).mono fun t ht => ⟨hstart.trans ht, ?_⟩
    obtain ⟨m, n, c, rfl, -, -, hc⟩ := ht
    exact hc hend

/-! ## The bodies of the commands -/

/-- EO_DEC writes VAL and NBITS (R148). -/
theorem eoDecBody_ends (s : State) :
    Ends (fun t => ∃ n k, t = (s.setVal n).setNbits k ∧ (1 ≤ s.par.valw → n < 2 ^ s.par.valw) ∧ k ≤ s.inlen)
      (eoDecBody s) := by
  unfold eoDecBody
  cases h : s.eoDecode s.pos with
  | value n k =>
    have hend : s.pos + k ≤ s.inlen := eoDecode_end_le h
    exact ⟨n, k, rfl, fun hm => eoDecode_lt hm h, by omega⟩
  | truncated => simp
  | boundsExceeded => simp

/-- HDR_DES makes CT anew and writes NBITS (R195). -/
theorem hdrDesBody_ends (s : State) :
    Ends (fun t => ∃ m c n, t = ((s.replaceCt m).setCur c).setNbits n ∧ m.wf Config.nsym = true ∧ c ≤ s.inlen ∧
      n ≤ s.inlen) (hdrDesBody s) := by
  unfold hdrDesBody
  match hdrDes s s.pos, hdrDes_ends s s.pos with
  | .error _, hx => exact hx
  | .ok _, ⟨m, c, rfl, hm, hc⟩ => exact ⟨m, c, c - s.pos, rfl, hm, hc, by omega⟩

/-- TOK_DES writes OUT, OUTLEN and NBITS (R218). -/
theorem tokDesBody_ends (s : State) :
    Ends (fun t => ∃ u n, t = u.setNbits n ∧ Expanded s u ∧ u.cur ≤ s.inlen ∧ n ≤ s.inlen) (tokDesBody s) := by
  unfold tokDesBody
  match tokDes s s.pos, tokDes_ends s s.pos with
  | .error _, hx => exact hx
  | .ok u, ⟨hu, hc⟩ => exact ⟨u, u.cur - s.pos, rfl, hu, hc, by omega⟩

/-- ENCODE makes CT anew and appends to OBUF (R253). -/
theorem encodeBody_ends (s : State) :
    Ends (fun t => ∃ m, m.wf Config.nsym = true ∧ Emitted (s.replaceCt m) t) (encodeBody s) := by
  unfold encodeBody
  match hufBuild s, hufBuild_ends s with
  | .error _, hx => exact hx
  | .ok _, ⟨m, rfl, hm⟩ =>
    dsimp only
    match hdrSer _, hdrSer_ends (s.replaceCt m) with
    | .error _, hx => exact hx
    | .ok s2, h2 => exact (tokSer_ends s2).mono fun _ h3 => ⟨m, hm, h2.trans h3⟩

/-- DECODE makes CT anew and writes OUT, OUTLEN and NBITS (R255). -/
theorem decodeBody_ends (s : State) :
    Ends (fun t => ∃ m c u n, t = u.setNbits n ∧ m.wf Config.nsym = true ∧ Expanded ((s.replaceCt m).setCur c) u ∧
      c ≤ s.inlen ∧ u.cur ≤ s.inlen ∧ n ≤ s.inlen) (decodeBody s) := by
  unfold decodeBody
  match hdrDes s s.pos, hdrDes_ends s s.pos with
  | .error _, hx => exact hx
  | .ok _, ⟨m, c, rfl, hm, hc⟩ =>
    dsimp only
    match tokDes _ _, tokDes_ends ((s.replaceCt m).setCur c) ((s.replaceCt m).setCur c).cur with
    | .error _, hx => exact hx
    | .ok u, ⟨hu, huc⟩ =>
      have huc : u.cur ≤ s.inlen := huc
      refine ⟨m, c, u, _, rfl, hm, hu, hc, huc, ?_⟩
      simp only [State.setCur_cur]
      omega

end Sys2Proof.Machine
end

section
/-! SUPPORT. The invariant outside the block's status: what every step that writes anything keeps. -/

namespace Sys2Proof.Machine

/-- Legal parameters, every register and memory within its width and capacity: the invariant but for STATUS, ERR and
the working state being 0 between operations. -/
structure State.Sound (s : State) : Prop where
  par : s.par.wf = true
  pos : s.pos < 2 ^ s.par.curw
  inlen : s.inlen < 2 ^ s.par.curw
  nbits : s.nbits < 2 ^ s.par.curw
  val : s.val < 2 ^ s.par.valw
  olen : s.olen < 2 ^ s.par.curw
  ntok : s.ntok < 2 ^ s.par.curw
  cur : s.cur < 2 ^ s.par.curw
  tokLeft : s.tokLeft < 2 ^ s.par.valw
  ibuf : s.ibuf.wf s.par.inMax = true
  obuf : s.obuf.wf s.par.obMax = true
  out : s.out.wf s.par.outMax = true
  tok : s.tok.wf s.par.tokMax = true
  freq : s.freq.wf Config.nsym = true
  ct : s.ct.wf Config.nsym = true
  freq_ne_zero : ∀ c ∈ s.freq, c.2 ≠ 0
  tok_fits : ∀ c ∈ s.tok, c.2 < 2 ^ s.par.tokw
  ctWrites : s.ctWrites.wf Config.nsym = true
  ctWrites_ne_zero : ∀ c ∈ s.ctWrites, c.2 ≠ 0
  outlen : s.outlen ≤ s.par.outMax

/-- `State.Sound` is the part of the invariant it is said to be. -/
theorem sound_iff (s : State) : s.Sound ↔ s.par.wf = true ∧ s.Fits ∧ s.MemWf ∧ s.outlen ≤ s.par.outMax := by
  constructor
  · intro h
    exact ⟨h.par, ⟨h.pos, h.inlen, h.nbits, h.val, h.olen, h.outlen.trans_lt s.par.outMax_lt_two_pow_curw, h.ntok,
      h.cur, h.tokLeft⟩, ⟨h.ibuf, h.obuf, h.out, h.tok, h.freq, h.ct, h.freq_ne_zero, h.tok_fits, h.ctWrites,
      h.ctWrites_ne_zero⟩, h.outlen⟩
  · rintro ⟨hpar, ⟨hpos, hinlen, hnbits, hval, holen, -, hntok, hcur, htokLeft⟩,
      ⟨hibuf, hobuf, hout, htok, hfreq, hct, hfreq0, htokFits, hctWrites, hctWrites0⟩, houtlen⟩
    exact ⟨hpar, hpos, hinlen, hnbits, hval, holen, hntok, hcur, htokLeft, hibuf, hobuf, hout, htok, hfreq, hct, hfreq0,
      htokFits, hctWrites, hctWrites0, houtlen⟩

theorem State.Inv.sound {s : State} (h : s.Inv) (hs : s.status ≠ .fault) : s.Sound := by
  obtain ⟨hpar, -, hfits, hmem, -, hout⟩ := h
  exact (sound_iff s).2 ⟨hpar, hfits, hmem, hout hs⟩

theorem State.Inv.par_wf {s : State} (h : s.Inv) : s.par.wf = true := h.1

/-- In READY and in BUSY there is no error (R34). -/
theorem State.Inv.err_none {s : State} (h : s.Inv) (hs : s.status ≠ .fault) : s.err = .none := by
  obtain ⟨-, herr, -⟩ := h
  by_contra he
  exact hs (herr.1 he)

/-- Outside a token loop and outside FAULT the block is done with its last operation. -/
theorem State.Inv.done {s : State} (h : s.Inv) (hs : s.status = .ready) : s.Done := by
  have herr := h.err_none (by simp [hs])
  obtain ⟨-, -, -, -, hwork, -⟩ := h
  obtain ⟨hcur, htokLeft⟩ := hwork (by simp [hs])
  exact ⟨hs, herr, hcur, htokLeft⟩

theorem State.Sound.inv_of_done {s : State} (h : s.Sound) (hd : s.Done) : s.Inv := by
  obtain ⟨hpar, hfits, hmem, hout⟩ := (sound_iff s).1 h
  obtain ⟨hs, herr, hcur, htokLeft⟩ := hd
  exact ⟨hpar, by simp [hs, herr], hfits, hmem, fun _ => ⟨hcur, htokLeft⟩, fun _ => hout⟩

theorem State.Sound.inv_of_busy {s : State} (h : s.Sound) (hs : s.status = .busy) (herr : s.err = .none) : s.Inv := by
  obtain ⟨hpar, hfits, hmem, hout⟩ := (sound_iff s).1 h
  exact ⟨hpar, by simp [hs, herr], hfits, hmem, fun hb => absurd hs hb, fun _ => hout⟩

/-! ## What the parts of an operation keep -/

theorem State.Sound.lt_of_le_inlen {s : State} (h : s.Sound) {n : Nat} (hn : n ≤ s.inlen) : n < 2 ^ s.par.curw :=
  hn.trans_lt h.inlen

theorem State.Sound.setNbits {s : State} (h : s.Sound) {n : Nat} (hn : n < 2 ^ s.par.curw) : (s.setNbits n).Sound :=
  { h with nbits := hn }

theorem State.Sound.setVal {s : State} (h : s.Sound) {n : Nat} (hn : n < 2 ^ s.par.valw) : (s.setVal n).Sound :=
  { h with val := hn }

theorem State.Sound.setCur {s : State} (h : s.Sound) {c : Nat} (hc : c ≤ s.inlen) : (s.setCur c).Sound :=
  { h with cur := h.lt_of_le_inlen hc }

theorem State.Sound.setTokLeft {s : State} (h : s.Sound) {n : Nat} (hn : n < 2 ^ s.par.valw) : (s.setTokLeft n).Sound :=
  { h with tokLeft := hn }

theorem State.Sound.replaceCt {s : State} (h : s.Sound) {m : Mem CtCell} (hm : m.wf Config.nsym = true) :
    (s.replaceCt m).Sound :=
  { h with ct := hm }

theorem State.Sound.complete {s : State} (h : s.Sound) : s.complete.Inv :=
  State.Sound.inv_of_done { h with cur := Nat.two_pow_pos _, tokLeft := Nat.two_pow_pos _ } ⟨rfl, rfl, rfl, rfl⟩

theorem State.Sound.emitted {s t : State} (h : s.Sound) (ht : Emitted s t) : t.Sound := by
  obtain ⟨m, n, rfl, hn, hm⟩ := ht
  exact { h with olen := hn h.olen, obuf := hm h.obuf }

/-- Reading tokens keeps the bounds when the cursor ends inside the data. -/
theorem State.Sound.expanded {s t : State} (h : s.Sound) (ht : Expanded s t) (hc : t.cur ≤ s.inlen) : t.Sound := by
  obtain ⟨m, n, c, rfl, hm, hn, -⟩ := ht
  exact { h with out := hm h.out, outlen := hn h.outlen, cur := h.lt_of_le_inlen hc }

theorem Emitted.par_eq {s t : State} (h : Emitted s t) : t.par = s.par := by
  obtain ⟨m, n, rfl, -⟩ := h
  rfl

theorem Expanded.par_eq {s t : State} (h : Expanded s t) : t.par = s.par := by
  obtain ⟨m, n, c, rfl, -⟩ := h
  rfl

theorem Expanded.cur_le {s t : State} (h : Expanded s t) (hs : s.cur ≤ s.inlen) : t.cur ≤ s.inlen := by
  obtain ⟨m, n, c, rfl, -, -, hc⟩ := h
  exact hc hs

/-! ## Fault entry and reset give the invariant -/

theorem freeRegister_lt (s : State) (r : Reg) : freeRegister s r < 2 ^ r.width s.par :=
  Nat.mod_lt _ (Nat.two_pow_pos _)

theorem freeFreqMem_wf (e : Nat) : (freeFreqMem e).wf Config.nsym = true :=
  List.foldlRecOn (motive := fun m => Mem.wf m Config.nsym = true) _ _ (Mem.wf_nil _)
    fun _ hm _ hk => Mem.wf_writeFreq hm (List.mem_range.1 hk)

theorem freeFreqMem_ne_zero (e : Nat) : ∀ c ∈ freeFreqMem e, c.2 ≠ 0 :=
  List.foldlRecOn (motive := fun m : Mem (BitVec 32) => ∀ c ∈ m, c.2 ≠ 0) _ _ (by simp)
    fun _ hm _ _ => Mem.writeFreq_ne_zero hm

theorem freeCtMem_wf (e : Nat) : (freeCtMem e).wf Config.nsym = true :=
  List.foldlRecOn (motive := fun m => Mem.wf m Config.nsym = true) _ _ (Mem.wf_nil _)
    fun _ hm _ hk => Mem.wf_writeCt hm (List.mem_range.1 hk)

/-- Whatever held before: the values after fault entry fit, since each is drawn with its register's width (R281). -/
theorem faultEntry_inv {s : State} {k : ErrKind} (hp : s.par.wf = true) (hk : k ≠ .none) : (s.faultEntry k).Inv :=
  ⟨hp, by simp [hk],
    ⟨freeRegister_lt s .pos, freeRegister_lt s .inlen, freeRegister_lt s .nbits, freeRegister_lt s .val,
      freeRegister_lt s .olen, freeRegister_lt s .outlen, freeRegister_lt s .ntok, Nat.two_pow_pos _,
      Nat.two_pow_pos _⟩,
    ⟨Mem.wf_nil _, Mem.wf_nil _, Mem.wf_nil _, Mem.wf_nil _, freeFreqMem_wf _, freeCtMem_wf _, freeFreqMem_ne_zero _,
      by simp, Mem.wf_nil _, by simp⟩,
    by simp, by simp⟩

/-- A state with nothing in it has the invariant (R54). -/
theorem resetBlock_inv {s : State} (hp : s.par.wf = true) : s.resetBlock.Inv := by
  have hzero : ∀ w, 0 < 2 ^ w := Nat.two_pow_pos
  exact ⟨hp, by simp, ⟨hzero _, hzero _, hzero _, hzero _, hzero _, hzero _, hzero _, hzero _, hzero _⟩,
    ⟨Mem.wf_nil _, Mem.wf_nil _, Mem.wf_nil _, Mem.wf_nil _, Mem.wf_nil _, Mem.wf_nil _, by simp, by simp, Mem.wf_nil _,
      by simp⟩, by simp, by simp⟩

/-! ## The commands keep the invariant -/

/-- The invariant holds and the parameters are those of `s`. -/
abbrev KeepsInv (s t : State) : Prop := t.Inv ∧ t.par = s.par

theorem faultEntry_keepsInv {s : State} {k : ErrKind} (hp : s.par.wf = true) (hk : k ≠ .none) :
    KeepsInv s (s.faultEntry k) := ⟨faultEntry_inv hp hk, rfl⟩

theorem resetBlock_keepsInv {s : State} (hp : s.par.wf = true) : KeepsInv s s.resetBlock := ⟨resetBlock_inv hp, rfl⟩

/-- A command keeps the invariant when its body, run on a sound state, ends with a sound one. -/
theorem issue_keepsInv {legal : Bool} {body : State → Except ErrKind State} {s t : State} (h : s.Inv)
    (hbody : s.Sound → Ends (fun u => u.Sound ∧ u.par = s.par) (body s)) (ht : issue legal body s = .next t) :
    KeepsInv s t := by
  obtain ⟨-, e⟩ | ⟨-, e⟩ | ⟨-, -, e⟩ | ⟨hs, -, k, hb, e⟩ | ⟨hs, -, u, hb, e⟩ :=
    issue_cases (legal := legal) (body := body) (s := s) <;> rw [e] at ht <;> cases ht
  case inl => exact ⟨h, rfl⟩
  case inr.inr.inl => exact faultEntry_keepsInv h.par_wf (by simp)
  case inr.inr.inr.inl => exact faultEntry_keepsInv h.par_wf ((hbody (h.sound (by simp [hs]))).of_error hb)
  case inr.inr.inr.inr =>
    obtain ⟨hu, hpar⟩ := (hbody (h.sound (by simp [hs]))).of_ok hb
    exact ⟨hu.complete, hpar⟩

theorem emitted_sound {s : State} (h : s.Sound) {r : Except ErrKind State} (hr : Ends (Emitted s) r) :
    Ends (fun u => u.Sound ∧ u.par = s.par) r :=
  hr.mono fun _ hu => ⟨h.emitted hu, hu.par_eq⟩

theorem eoDecBody_sound {s : State} (h : s.Sound) : Ends (fun u => u.Sound ∧ u.par = s.par) (eoDecBody s) := by
  refine (eoDecBody_ends s).mono ?_
  rintro _ ⟨n, k, rfl, hn, hk⟩
  exact ⟨(h.setVal (hn (by have := Params.seven_le_valw h.par; omega))).setNbits (h.lt_of_le_inlen hk), rfl⟩

theorem hufBuild_sound {s : State} (h : s.Sound) : Ends (fun u => u.Sound ∧ u.par = s.par) (hufBuild s) := by
  refine (hufBuild_ends s).mono ?_
  rintro _ ⟨m, rfl, hm⟩
  exact ⟨h.replaceCt hm, rfl⟩

theorem hdrDesBody_sound {s : State} (h : s.Sound) : Ends (fun u => u.Sound ∧ u.par = s.par) (hdrDesBody s) := by
  refine (hdrDesBody_ends s).mono ?_
  rintro _ ⟨m, c, n, rfl, hm, hc, hn⟩
  exact ⟨((h.replaceCt hm).setCur hc).setNbits (h.lt_of_le_inlen hn), rfl⟩

theorem tokDesBody_sound {s : State} (h : s.Sound) : Ends (fun u => u.Sound ∧ u.par = s.par) (tokDesBody s) := by
  refine (tokDesBody_ends s).mono ?_
  rintro _ ⟨u, n, rfl, hu, hc, hn⟩
  have hpar : u.par = s.par := hu.par_eq
  exact ⟨(h.expanded hu hc).setNbits (hpar ▸ h.lt_of_le_inlen hn), hpar⟩

theorem encodeBody_sound {s : State} (h : s.Sound) : Ends (fun u => u.Sound ∧ u.par = s.par) (encodeBody s) := by
  refine (encodeBody_ends s).mono ?_
  rintro u ⟨m, hm, hu⟩
  exact ⟨(h.replaceCt hm).emitted hu, hu.par_eq⟩

theorem decodeBody_sound {s : State} (h : s.Sound) : Ends (fun u => u.Sound ∧ u.par = s.par) (decodeBody s) := by
  refine (decodeBody_ends s).mono ?_
  rintro _ ⟨m, c, u, n, rfl, hm, hu, hc, huc, hn⟩
  have hpar : u.par = s.par := hu.par_eq
  exact ⟨(((h.replaceCt hm).setCur hc).expanded hu huc).setNbits (hpar ▸ h.lt_of_le_inlen hn), hpar⟩

/-- Every command keeps the invariant, whatever the status it is given in. -/
theorem exec_keepsInv {i : Instr} (hlit : i ≠ .litTok) (hmatch : i ≠ .matchTok) {s t : State} (h : s.Inv)
    (ht : exec i s = .next t) : KeepsInv s t := by
  cases i with
  | eoEnc => exact issue_keepsInv h (fun hs => emitted_sound hs (eoEmit_ends s _)) ht
  | eoDec => exact issue_keepsInv h eoDecBody_sound ht
  | hufBuild => exact issue_keepsInv h hufBuild_sound ht
  | hdrSer => exact issue_keepsInv h (fun hs => emitted_sound hs (hdrSer_ends s)) ht
  | hdrDes => exact issue_keepsInv h hdrDesBody_sound ht
  | tokSer => exact issue_keepsInv h (fun hs => emitted_sound hs (tokSer_ends s)) ht
  | tokDes => exact issue_keepsInv h tokDesBody_sound ht
  | encode => exact issue_keepsInv h encodeBody_sound ht
  | decode => exact issue_keepsInv h decodeBody_sound ht
  | reset =>
    have ht : execReset s = .next t := ht
    unfold execReset at ht
    split at ht <;> cases ht <;> exact resetBlock_keepsInv h.par_wf
  | litTok => exact absurd rfl hlit
  | matchTok => exact absurd rfl hmatch

/-! ## A step of a token loop keeps the invariant -/

theorem finishTokens_keepsInv {s : State} (h : s.Sound) : KeepsInv s s.finishTokens :=
  ⟨(h.setNbits ((Nat.sub_le _ _).trans_lt h.cur)).complete, rfl⟩

theorem retireToken_keepsInv {s : State} (h : s.Sound) (hs : s.status = .busy) (herr : s.err = .none) :
    KeepsInv s (retireToken s) := by
  unfold retireToken
  rw [if_pos hs]
  split_ifs
  · exact finishTokens_keepsInv h
  · exact ⟨(h.setTokLeft ((Nat.sub_le _ _).trans_lt h.tokLeft)).inv_of_busy hs herr, rfl⟩

/-- After a token the loop goes on or completes; after a fault there is nothing to retire. -/
theorem retireToken_settleToken_keepsInv {s : State} (h : s.Sound) (hs : s.status = .busy) (herr : s.err = .none)
    (hcur : s.cur ≤ s.inlen) {r : Except ErrKind State} (hr : Ends (Expanded s) r) :
    KeepsInv s (retireToken (settleToken s r)) := by
  cases r with
  | error k => exact faultEntry_keepsInv h.par hr
  | ok t =>
    have ht : t.Sound := h.expanded hr (hr.cur_le hcur)
    obtain ⟨m, n, c, rfl, -⟩ := hr
    exact retireToken_keepsInv ht hs herr

theorem runFetched_token_keepsInv {s t : State} (f : Bool) (h : s.Sound) (hs : s.status = .busy) (herr : s.err = .none)
    (hcur : s.cur ≤ s.inlen) (ht : runFetched (.run (decodeFlag f) s) = .next t) : KeepsInv s t := by
  cases f with
  | true =>
    cases ht
    exact retireToken_settleToken_keepsInv h hs herr hcur (litBody_ends s)
  | false =>
    cases ht
    exact retireToken_settleToken_keepsInv h hs herr hcur (matchBody_ends s)

theorem fetchToken_keepsInv {s t : State} (h : s.Inv) (hs : s.status = .busy)
    (ht : runFetched (fetchToken s) = .next t) : KeepsInv s t := by
  have hsound : s.Sound := h.sound (by simp [hs])
  unfold fetchToken at ht
  split_ifs at ht with hleft havail
  · cases ht
    exact finishTokens_keepsInv hsound
  · cases ht
    exact faultEntry_keepsInv h.par_wf (by simp)
  · have hflag : s.cur + 1 ≤ s.inlen := avail_iff.1 (by simpa [State.avail] using havail)
    have herr : s.err = .none := h.err_none (by simp [hs])
    exact runFetched_token_keepsInv (s := s.setCur (s.cur + 1)) _ (hsound.setCur hflag) hs herr hflag ht

end Sys2Proof.Machine
end

section
/-! SUPPORT. The host's accesses keep the invariant; and with the commands and the token steps, every step does. -/

namespace Sys2Proof.Machine

/-! ## What a host write keeps -/

theorem State.Sound.writeReg {s : State} (h : s.Sound) {r : Reg} {v : Nat} (hv : v < 2 ^ r.width s.par) :
    (s.writeReg v r).Sound := by
  cases r with
  | pos => exact { h with pos := hv }
  | inlen => exact { h with inlen := hv }
  | val => exact { h with val := hv }
  | olen => exact { h with olen := hv }
  | ntok => exact { h with ntok := hv }
  | cmd | status | err | nbits | outlen => exact h

/-- Writing no bits at all changes nothing, wherever it is said to happen. -/
theorem State.Sound.writeBits {s : State} (h : s.Sound) {m : BitMem} {i : Nat} {b : Bits}
    (hb : b = [] ∨ i + b.length ≤ m.size s.par) : (s.writeBits i b m).Sound := by
  cases hb with
  | inl hnil =>
    subst hnil
    cases m <;> exact h
  | inr hend =>
    cases m with
    | ibuf => exact { h with ibuf := Mem.wf_writeSeq h.ibuf hend }
    | obuf => exact { h with obuf := Mem.wf_writeSeq h.obuf hend }

theorem State.Sound.writeTok {s : State} (h : s.Sound) {i c : Nat} (hi : i < s.par.tokMax) (hc : c < 2 ^ s.par.tokw) :
    (s.setTok (Mem.write s.tok i c)).Sound :=
  { h with
    tok := Mem.wf_write h.tok hi
    tok_fits := fun d hd => (Mem.mem_write hd).elim (fun e => by simpa [e] using hc) (h.tok_fits d) }

theorem State.Sound.writeFreq {s : State} (h : s.Sound) {k : Nat} {v : BitVec 32} (hk : k < Config.nsym) :
    (s.setFreq (Mem.writeFreq s.freq k v)).Sound :=
  { h with freq := Mem.wf_writeFreq h.freq hk, freq_ne_zero := Mem.writeFreq_ne_zero h.freq_ne_zero }

theorem State.Sound.writeCt {s : State} (h : s.Sound) {k n : Nat} {e : Option CtCell} (hk : k < Config.nsym) :
    ((s.setCt (Mem.writeCt s.ct k e)).setCtWrites (Mem.write s.ctWrites k (n + 1))).Sound :=
  { h with
    ct := Mem.wf_writeCt h.ct hk
    ctWrites := Mem.wf_write h.ctWrites hk
    ctWrites_ne_zero := fun d hd => (Mem.mem_write hd).elim (fun e => by simp [e]) (h.ctWrites_ne_zero d) }

/-- Of a run of bits no more is stored than there are cells (R72). -/
theorem take_cells_end_le (size i : Nat) (b : Bits) :
    b.take (size - i) = [] ∨ i + (b.take (size - i)).length ≤ size := by
  rw [List.take_eq_nil_iff, List.length_take]
  omega

theorem State.Sound.hostWrite {s : State} (h : s.Sound) {a : HostAct} (hfits : a.fits s.par = true)
    (hcells : a.cellsExist s.par = true) : (s.hostWrite a).Sound := by
  cases a with
  | wrReg r v => exact h.writeReg (by simpa [HostAct.fits] using hfits)
  | wrBit m i b => exact h.writeBits (.inr (by simpa [HostAct.cellsExist] using hcells))
  | wrBytes m j bs => exact h.writeBits (take_cells_end_le _ _ _)
  | wrTok i c => exact h.writeTok (by simpa [HostAct.cellsExist] using hcells) (by simpa [HostAct.fits] using hfits)
  | wrFreq k v => exact h.writeFreq (by simpa [HostAct.cellsExist] using hcells)
  | wrCt k valid len bits => exact h.writeCt (by simpa [HostAct.cellsExist] using hcells)
  | load b => exact h.writeBits (m := .ibuf) (.inr (by simpa [HostAct.cellsExist, BitMem.size] using hcells))
  | loadObuf n =>
    simp only [HostAct.cellsExist, Bool.and_eq_true, decide_eq_true_eq] at hcells
    exact h.writeBits (m := .ibuf) (.inr (by simpa [BitMem.size] using hcells.1))
  | wrOut | rdReg | rdBit | rdBytes | rdOut | rdTok | rdFreq | rdCt | hwReset => exact h

/-- A host write changes neither STATUS and ERR, nor the working state, nor the parameters, nor the host's side. -/
theorem hostWrite_frame (s : State) (a : HostAct) :
    (s.hostWrite a).par = s.par ∧ (s.hostWrite a).status = s.status ∧ (s.hostWrite a).err = s.err ∧
      (s.hostWrite a).cur = s.cur ∧ (s.hostWrite a).tokLeft = s.tokLeft ∧ (s.hostWrite a).script = s.script := by
  cases a with
  | wrReg r v => cases r <;> simp [State.hostWrite, State.writeReg]
  | wrBit m i b => cases m <;> simp [State.hostWrite, State.writeBits]
  | wrBytes m j bs => cases m <;> simp [State.hostWrite, State.writeBits]
  | _ => simp [State.hostWrite, State.writeBits]

theorem readyAccess_keepsInv {a : HostAct} {s t : State} (h : s.Inv) (hs : s.status = .ready)
    (ht : readyAccess a s = .next t) : KeepsInv s t := by
  obtain ⟨hfits, hcells, ⟨v, -, rfl⟩ | ⟨-, rfl⟩⟩ := readyAccess_next ht
  · exact ⟨h, rfl⟩
  · obtain ⟨hpar, hstatus, herr, hcur, htokLeft, -⟩ := hostWrite_frame s a
    obtain ⟨-, he, hc, hl⟩ := h.done hs
    exact ⟨((h.sound (by simp [hs])).hostWrite hfits hcells).inv_of_done
      ⟨hstatus.trans hs, herr.trans he, hcur.trans hc, htokLeft.trans hl⟩, hpar⟩

theorem hostAccess_keepsInv {a : HostAct} {s t : State} (h : s.Inv) (ht : hostAccess a s = .next t) : KeepsInv s t := by
  obtain ⟨-, rfl⟩ | ⟨-, ⟨hs, ht⟩ | ⟨-, ht⟩ | ⟨-, -, rfl⟩⟩ := hostAccess_next ht
  case inl => exact ⟨h, rfl⟩
  case inr.inl => exact readyAccess_keepsInv h hs ht
  case inr.inr.inl =>
    have hframe := faultAccess_frame ht
    have hpar : t.par = s.par := by rw [← hframe]
    rw [← hframe] at h
    exact ⟨h, hpar⟩
  case inr.inr.inr => exact ⟨h, rfl⟩

/-! ## A write to CMD -/

theorem runFetched_command_keepsInv {w : Byte} {i : Instr} (hi : decodeCmd w = .ok i) {s t : State} (h : s.Inv)
    (ht : runFetched (.run i s) = .next t) : KeepsInv s t := by
  obtain ⟨hlit, hmatch⟩ := decodeCmd_not_token hi
  rw [runFetched_command hlit hmatch] at ht
  exact exec_keepsInv hlit hmatch h ht

theorem fetchCommand_keepsInv {w : Byte} {s t : State} (h : s.Inv) (ht : runFetched (fetchCommand w s) = .next t) :
    KeepsInv s t := by
  unfold fetchCommand at ht
  cases hs : s.status <;> simp only [hs] at ht
  case busy => cases ht
  case ready =>
    cases hi : decodeCmd w <;> simp only [hi] at ht
    · cases ht
      exact faultEntry_keepsInv h.par_wf (by simp)
    · exact runFetched_command_keepsInv hi h ht
  case fault =>
    cases hi : decodeCmd w <;> simp only [hi] at ht
    · cases ht
      exact ⟨h, rfl⟩
    · exact runFetched_command_keepsInv hi h ht

/-- The host's actions but for the reset input and a write to CMD are accesses (R38). -/
theorem fetchHost_access {a : HostAct} (hreset : a ≠ .hwReset) (hcmd : ∀ w, a ≠ .wrReg .cmd w) (s : State) :
    fetchHost a s = .settled (hostAccess a s) := by
  unfold fetchHost
  split
  · exact absurd rfl hreset
  · exact absurd rfl (hcmd _)
  · rfl

theorem fetchHost_keepsInv {a : HostAct} (hreset : a ≠ .hwReset) {s t : State} (h : s.Inv)
    (ht : runFetched (fetchHost a s) = .next t) : KeepsInv s t := by
  by_cases hcmd : ∃ v, a = .wrReg .cmd v
  · obtain ⟨v, rfl⟩ := hcmd
    simp only [fetchHost] at ht
    split_ifs at ht
    · exact fetchCommand_keepsInv h ht
    · cases ht
  · rw [fetchHost_access hreset (by simpa using hcmd)] at ht
    exact hostAccess_keepsInv h ht

/-! ## Every step -/

/-- The invariant does not speak of the host's script. -/
theorem inv_setScript {s : State} (h : s.Inv) (l : List HostAct) : (s.setScript l).Inv := h

theorem step_keepsInv {s t : State} (h : s.Inv) (ht : step s = .next t) : KeepsInv s t := by
  rw [step_eq_runFetched] at ht
  obtain ⟨rest, -, e⟩ | ⟨-, hs, e⟩ | ⟨-, -, e⟩ | ⟨-, a, rest, -, hreset, e⟩ := fetch_cases s <;> rw [e] at ht
  case inl =>
    cases ht
    exact resetBlock_keepsInv (s := s.setScript rest) h.par_wf
  case inr.inl => exact fetchToken_keepsInv h hs ht
  case inr.inr.inl =>
    cases ht
    exact ⟨h, rfl⟩
  case inr.inr.inr => exact fetchHost_keepsInv (s := s.setScript rest) hreset (inv_setScript h rest) ht

/-- Settles O3: the invariant is split into the bounds every part of an operation keeps (`State.Sound`) and the status,
and each way a step can go is one of the lemmas above. -/
theorem everyStepKeepsTheInvariant : Obligations.EveryStepKeepsTheInvariant := fun _ _ => step_keepsInv

end Sys2Proof.Machine
end

section
/-! SUPPORT. The access table (R39): what a completed command or token changed, read off from what its body writes. -/

namespace Sys2Proof.Machine

/-- What a command or token that ends in READY has left as it was, by the columns of the access table (R39). -/
def LeavesUnmarked (i : Instr) (s t : State) : Prop :=
  SameInputs s t ∧ SameOutside s t ∧
    (i ∈ [Instr.eoEnc, .hufBuild, .hdrSer, .tokSer, .encode] → t.nbits = s.nbits) ∧
    (i ≠ .eoDec → t.val = s.val) ∧
    (i ∈ [Instr.eoDec, .hufBuild, .hdrDes, .tokDes, .decode, .litTok, .matchTok] → t.olen = s.olen ∧ t.obuf = s.obuf) ∧
    (i ∈ [Instr.eoEnc, .eoDec, .hufBuild, .hdrSer, .hdrDes, .tokSer, .encode] → t.outlen = s.outlen ∧ t.out = s.out) ∧
    (i ∈ [Instr.eoEnc, .eoDec, .hdrSer, .tokSer, .tokDes, .litTok, .matchTok] → SameCt s t) ∧
    (i ∈ [Instr.hufBuild, .hdrDes, .encode, .decode] → NewCt s t)

/-- An encoding body appends to OBUF only, so its row may mark OBUF and OLEN. -/
theorem emitted_leavesUnmarked {i : Instr} (hi : i ∈ [Instr.eoEnc, .hdrSer, .tokSer]) {s u : State} (h : Emitted s u) :
    LeavesUnmarked i s u.complete := by
  obtain ⟨m, n, rfl, -, -⟩ := h
  simp only [List.mem_cons, List.not_mem_nil, or_false] at hi
  obtain rfl | rfl | rfl := hi <;> simp [LeavesUnmarked, SameInputs, SameOutside, SameCt]

/-- A token writes OUT and OUTLEN only; it does not complete an operation. -/
theorem expanded_leavesUnmarked {i : Instr} (hi : i ∈ [Instr.litTok, .matchTok]) {s u : State} (h : Expanded s u) :
    LeavesUnmarked i s u := by
  obtain ⟨m, n, c, rfl, -⟩ := h
  simp only [List.mem_cons, List.not_mem_nil, or_false] at hi
  obtain rfl | rfl := hi <;> simp [LeavesUnmarked, SameInputs, SameOutside, SameCt]

/-- A token that did not enter FAULT ran to its end. -/
theorem settleToken_done {s : State} {r : Except ErrKind State} (h : (settleToken s r).status = .ready) :
    r = .ok (settleToken s r) := by
  cases r with
  | ok t => rfl
  | error k => simp [settleToken] at h

theorem exec_leavesUnmarked {i : Instr} (hi : i ≠ .reset) {s t : State} (hs : s.status = .ready)
    (hx : exec i s = .next t) (ht : t.status = .ready) : LeavesUnmarked i s t := by
  cases i with
  | eoEnc =>
    obtain ⟨-, u, hb, rfl⟩ := issue_ready_done hs hx ht
    exact emitted_leavesUnmarked (by simp) ((eoEmit_ends s _).of_ok hb)
  | hdrSer =>
    obtain ⟨-, u, hb, rfl⟩ := issue_ready_done hs hx ht
    exact emitted_leavesUnmarked (by simp) ((hdrSer_ends s).of_ok hb)
  | tokSer =>
    obtain ⟨-, u, hb, rfl⟩ := issue_ready_done hs hx ht
    exact emitted_leavesUnmarked (by simp) ((tokSer_ends s).of_ok hb)
  | eoDec =>
    obtain ⟨-, u, hb, rfl⟩ := issue_ready_done hs hx ht
    obtain ⟨n, k, rfl, -⟩ := (eoDecBody_ends s).of_ok hb
    simp [LeavesUnmarked, SameInputs, SameOutside, SameCt]
  | hufBuild =>
    obtain ⟨-, u, hb, rfl⟩ := issue_ready_done hs hx ht
    obtain ⟨m, rfl, -⟩ := (hufBuild_ends s).of_ok hb
    simp [LeavesUnmarked, SameInputs, SameOutside, NewCt]
  | hdrDes =>
    obtain ⟨-, u, hb, rfl⟩ := issue_ready_done hs hx ht
    obtain ⟨m, c, n, rfl, -⟩ := (hdrDesBody_ends s).of_ok hb
    simp [LeavesUnmarked, SameInputs, SameOutside, NewCt]
  | tokDes =>
    obtain ⟨-, u, hb, rfl⟩ := issue_ready_done hs hx ht
    obtain ⟨_, n, rfl, ⟨m, l, c, rfl, -⟩, -⟩ := (tokDesBody_ends s).of_ok hb
    simp [LeavesUnmarked, SameInputs, SameOutside, SameCt]
  | encode =>
    obtain ⟨-, u, hb, rfl⟩ := issue_ready_done hs hx ht
    obtain ⟨m, -, o, n, rfl, -⟩ := (encodeBody_ends s).of_ok hb
    simp [LeavesUnmarked, SameInputs, SameOutside, NewCt]
  | decode =>
    obtain ⟨-, u, hb, rfl⟩ := issue_ready_done hs hx ht
    obtain ⟨m, c, _, n, rfl, -, ⟨o, l, c', rfl, -⟩, -⟩ := (decodeBody_ends s).of_ok hb
    simp [LeavesUnmarked, SameInputs, SameOutside, NewCt]
  | litTok =>
    cases hx
    exact expanded_leavesUnmarked (by simp) ((litBody_ends s).of_ok (settleToken_done ht))
  | matchTok =>
    cases hx
    exact expanded_leavesUnmarked (by simp) ((matchBody_ends s).of_ok (settleToken_done ht))
  | reset => exact absurd rfl hi

/-- Settles O17: each instruction's row is read off from what its body writes. -/
theorem commandsWriteOnlyWhatTheTableMarks : Obligations.CommandsWriteOnlyWhatTheTableMarks :=
  fun _ _ _ hs hi hx ht => exec_leavesUnmarked hi hs hx ht

end Sys2Proof.Machine
end

section
/-! SUPPORT. The layout of a table entry (R46) and of a token cell (R44), and the reset state (R54). -/

namespace Sys2Proof

/-- Bit j of a sequence, counted from its first, is bit length - 1 - j of its value (R11). -/
theorem testBit_val {b : Bits} {j : Nat} (h : j < b.length) : (val b).testBit (b.length - 1 - j) = b[j] := by
  have hb : binN b.length (val b) = b := binN_val b
  calc (val b).testBit (b.length - 1 - j) = (binN b.length (val b))[j]'(by simpa using h) := (getElem_binN _).symm
    _ = b[j] := by simp [hb]

namespace Machine

/-! ## A codeword in its table entry (R46) -/

theorem ofCw_len {cw : Bits} (h : cw.length ≤ Config.cwMax) : (CtCell.ofCw cw).len.toNat = cw.length := by
  simp only [CtCell.ofCw, BitVec.toNat_ofNat, Config.cwMax] at h ⊢
  omega

/-- BITS is the codeword's value, shifted to the left end of the field. -/
theorem ofCw_getMsbD {cw : Bits} {j : Nat} (hj : j < 94) :
    (CtCell.ofCw cw).bits.getMsbD j =
      (decide (94 - cw.length ≤ 93 - j) && (val cw).testBit (93 - j - (94 - cw.length))) := by
  simp only [CtCell.ofCw, BitVec.getMsbD, BitVec.getLsbD_ofNat, Nat.testBit_mul_two_pow, hj]
  simp
  omega

theorem ofCw_getMsbD_of_lt {cw : Bits} (h : cw.length ≤ Config.cwMax) {j : Nat} (hj : j < cw.length) :
    (CtCell.ofCw cw).bits.getMsbD j = cw[j] := by
  have h94 : cw.length ≤ 94 := h
  rw [ofCw_getMsbD (by omega), ← testBit_val hj, show 93 - j - (94 - cw.length) = cw.length - 1 - j by omega]
  simp
  omega

theorem ofCw_getMsbD_of_le {cw : Bits} (h : cw.length ≤ Config.cwMax) {j : Nat} (hj : cw.length ≤ j) :
    (CtCell.ofCw cw).bits.getMsbD j = false := by
  have h94 : cw.length ≤ 94 := h
  by_cases hj94 : j < 94
  · have hbeyond : ¬ 94 - cw.length ≤ 93 - j := by omega
    rw [ofCw_getMsbD hj94, decide_eq_false hbeyond, Bool.false_and]
  · exact BitVec.getMsbD_of_ge _ _ (by omega)

theorem ofCw_cw {cw : Bits} (h : cw.length ≤ Config.cwMax) : (CtCell.ofCw cw).cw = cw := by
  refine List.ext_getElem (by simp [CtCell.cw, ofCw_len h]) fun j _ hj => ?_
  simp [CtCell.cw, ofCw_getMsbD_of_lt h hj]

/-- Settles O36, bit by bit: BITS is the codeword's value at the left end of the field. -/
theorem codewordSurvivesItsTableEntry : Obligations.CodewordSurvivesItsTableEntry :=
  fun _ h => ⟨ofCw_cw h, ofCw_len h, fun _ => ofCw_getMsbD_of_le h⟩

/-! ## A token in its cell (R44) -/

theorem two_pow_two_mul (v : Nat) : 2 ^ (2 * v) = 2 ^ v * 2 ^ v := by rw [two_mul, pow_add]

/-- A symbol lies below KIND when VALW is at least 7 (R8). -/
theorem sym_lt_two_pow {v : Nat} (hv : 7 ≤ v) (s : Sym) : s.toNat < 2 ^ (2 * v) :=
  s.isLt.trans_le (Nat.pow_le_pow_right (by decide) (by omega))

theorem matchCell_lt {v o l : Nat} (ho : o < 2 ^ v) (hl : l < 2 ^ v) : o * 2 ^ v + l < 2 ^ (2 * v) := by
  rw [two_pow_two_mul]
  calc o * 2 ^ v + l < o * 2 ^ v + 2 ^ v := by omega
    _ = (o + 1) * 2 ^ v := by ring
    _ ≤ 2 ^ v * 2 ^ v := Nat.mul_le_mul_right _ ho

theorem ofCell_toCell_lit {v : Nat} (hv : 7 ≤ v) (s : Sym) : Token.ofCell v (Token.toCell v (.lit s)) = .lit s := by
  have hkind : (2 ^ (2 * v) + s.toNat).testBit (2 * v) = true := by
    rw [Nat.testBit_two_pow_add_eq, Nat.testBit_lt_two_pow (sym_lt_two_pow hv s), Bool.not_false]
  have hdvd : 2 ^ 7 ∣ 2 ^ (2 * v) := pow_dvd_pow 2 (by omega)
  have hsym : BitVec.ofNat 7 (2 ^ (2 * v) + s.toNat) = s := by
    apply BitVec.eq_of_toNat_eq
    rw [BitVec.toNat_ofNat, Nat.add_mod, Nat.mod_eq_zero_of_dvd hdvd, zero_add, Nat.mod_mod, Nat.mod_eq_of_lt s.isLt]
  simp [Token.ofCell, Token.toCell, hkind, hsym]

theorem ofCell_toCell_mtch {v o l : Nat} (ho : o < 2 ^ v) (hl : l < 2 ^ v) :
    Token.ofCell v (Token.toCell v (.mtch o l)) = .mtch o l := by
  have hkind : (o * 2 ^ v + l).testBit (2 * v) = false := Nat.testBit_lt_two_pow (matchCell_lt ho hl)
  have hoff : (o * 2 ^ v + l) / 2 ^ v = o := by
    rw [mul_comm, Nat.mul_add_div (Nat.two_pow_pos v), Nat.div_eq_of_lt hl, add_zero]
  have hlen : (o * 2 ^ v + l) % 2 ^ v = l := by
    rw [mul_comm, Nat.mul_add_mod, Nat.mod_eq_of_lt hl]
  simp [Token.ofCell, Token.toCell, hkind, hoff, hlen, Nat.mod_eq_of_lt ho]

theorem toCell_lt {p : Params} {t : Token} (hp : p.wf = true) (ht : t.wf p = true) : t.toCell p.valw < 2 ^ p.tokw := by
  have htokw : 2 ^ p.tokw = 2 ^ (2 * p.valw) + 2 ^ (2 * p.valw) := by rw [Params.tokw, pow_add]; ring
  rw [htokw]
  cases t with
  | lit s => exact Nat.add_lt_add_left (sym_lt_two_pow (Params.seven_le_valw hp) s) _
  | mtch o l =>
    simp only [Token.wf, Bool.and_eq_true, decide_eq_true_eq] at ht
    obtain ⟨⟨-, ho⟩, hl⟩ := ht
    exact (matchCell_lt ho hl).trans_le (Nat.le_add_right _ _)

theorem ofCell_toCell {p : Params} {t : Token} (hp : p.wf = true) (ht : t.wf p = true) :
    Token.ofCell p.valw (t.toCell p.valw) = t := by
  cases t with
  | lit s => exact ofCell_toCell_lit (Params.seven_le_valw hp) s
  | mtch o l =>
    simp only [Token.wf, Bool.and_eq_true, decide_eq_true_eq] at ht
    obtain ⟨⟨-, ho⟩, hl⟩ := ht
    exact ofCell_toCell_mtch ho hl

/-- Of a literal's cell only bits [6:0] and KIND count (V11). -/
theorem ofCell_lit_congr {v c c' : Nat} (h : c.testBit (2 * v) = true) (h' : c'.testBit (2 * v) = true)
    (hc : c % 128 = c' % 128) : Token.ofCell v c = Token.ofCell v c' := by
  have hsym : BitVec.ofNat 7 c = BitVec.ofNat 7 c' := BitVec.eq_of_toNat_eq (by simpa using hc)
  simp [Token.ofCell, h, h', hsym]

/-- Settles O44: KIND is the top bit of the cell, and below it stands the symbol or the offset and the length. -/
theorem tokenCellReadsBackAsItsToken : Obligations.TokenCellReadsBackAsItsToken :=
  ⟨fun _ _ hp ht => ⟨ofCell_toCell hp ht, toCell_lt hp ht⟩, fun _ _ _ _ h h' hc => ofCell_lit_congr h h' hc⟩

/-! ## The reset state (R54) -/

/-- Settles O1: each reset value is a law of the state, and an empty memory holds no known cell. -/
theorem resetStateIsCleared : Obligations.ResetStateIsCleared := by
  refine ⟨⟨⟨rfl, rfl, rfl, rfl⟩, rfl, rfl, rfl, rfl, rfl, rfl, rfl, fun k => ?_, fun k => ?_, fun i => ?_⟩, rfl⟩
  · simp [State.freqCell]
  · simp [State.ctEntry]
  · simp

/-- Settles O2: the state after reset is, but for the epoch, what a reset leaves of it. -/
theorem invariantHoldsAtReset : Obligations.InvariantHoldsAtReset :=
  resetBlock_inv (s := State.reset) (by decide)

end Machine
end Sys2Proof
end

section
/-! SUPPORT. The host port (R31, R38, R47): what an access does in a step, and what a write changes of what reads
answer. -/

namespace Sys2Proof

/-- What the reading actions have in common. -/
theorem HostAct.of_reads {a : HostAct} (h : a.reads = true) (p : Params) :
    a.ignored = false ∧ a.fits p = true ∧ a ≠ .hwReset ∧ ∀ w, a ≠ .wrReg .cmd w := by
  cases a <;> simp [HostAct.reads, HostAct.ignored, HostAct.fits] at h ⊢

/-- The writes that every state ignores are no reads, no reset and no command (R38). -/
theorem HostAct.of_ignored {a : HostAct} (h : a.ignored = true) :
    a.reads = false ∧ a ≠ .hwReset ∧ ∀ w, a ≠ .wrReg .cmd w := by
  cases a with
  | wrReg r v => cases r <;> simp [HostAct.ignored, HostAct.reads] at h ⊢
  | wrOut i v => simp [HostAct.reads]
  | _ => simp [HostAct.ignored] at h

/-- Bit 7 - k of a byte is the bit that stands at place k in stream order (R72). -/
theorem getLsbD_byteOfBits {b : Bits} (hb : b.length = 8) {k : Nat} (hk : k < b.length) :
    (byteOfBits b).getLsbD (7 - k) = b[k] := by
  rw [← testBit_val hk, byteOfBits, BitVec.getLsbD_ofNat, show b.length - 1 - k = 7 - k by omega]
  simp
  omega

namespace Machine

/-! ## Answers -/

theorem answer_isSome (s : State) (a : HostAct) : (s.answer a).isSome = a.reads := by
  cases a <;> rfl

theorem answer_eq_none {s : State} {a : HostAct} (h : a.reads = false) : s.answer a = none := by
  rw [← Option.not_isSome_iff_eq_none, answer_isSome, h]
  decide

theorem reads_of_answer {s : State} {a : HostAct} {v : PortVal} (h : s.answer a = some v) : a.reads = true := by
  rw [← answer_isSome s, h]
  rfl

/-- What the port answers does not depend on the script or on the last answer. -/
@[simp] theorem answer_setScript (s : State) (l : List HostAct) (a : HostAct) :
    (s.setScript l).answer a = s.answer a := by
  cases a with
  | rdReg r => cases r <;> rfl
  | rdBit m i => cases m <;> rfl
  | rdBytes m j n => cases m <;> rfl
  | _ => rfl

@[simp] theorem answer_setRdata (s : State) (v : PortVal) (a : HostAct) : (s.setRdata v).answer a = s.answer a := by
  cases a with
  | rdReg r => cases r <;> rfl
  | rdBit m i => cases m <;> rfl
  | rdBytes m j n => cases m <;> rfl
  | _ => rfl

/-! ## One access, one step -/

/-- Outside BUSY the host's access is the step. -/
theorem step_hostAccess {s : State} {a : HostAct} {rest : List HostAct} (hs : s.status ≠ .busy)
    (hscript : s.script = a :: rest) (hreset : a ≠ .hwReset) (hcmd : ∀ w, a ≠ .wrReg .cmd w) :
    step s = hostAccess a (s.setScript rest) := by
  rw [step_eq_runFetched]
  obtain ⟨rest', h, -⟩ | ⟨-, h, -⟩ | ⟨-, h, -⟩ | ⟨-, a', rest', h, -, e⟩ := fetch_cases s
  · simp [hscript, hreset] at h
  · exact absurd h hs
  · simp [hscript] at h
  · obtain ⟨rfl, rfl⟩ := List.cons.inj (hscript.symm.trans h)
    rw [e, fetchHost_access hreset hcmd]
    rfl

theorem hostWrite_of_ignored {s : State} {a : HostAct} (h : a.ignored = true) : s.hostWrite a = s := by
  cases a with
  | wrReg r v =>
    cases r with
    | status | err | nbits | outlen => rfl
    | cmd | pos | inlen | val | olen | ntok => simp [HostAct.ignored] at h
  | wrOut i v => rfl
  | _ => simp [HostAct.ignored] at h

/-- A write that is ignored in every state changes nothing but the script (R38). -/
theorem step_ignored {s : State} {a : HostAct} {rest : List HostAct} (hs : s.status ≠ .busy)
    (hscript : s.script = a :: rest) (ha : a.ignored = true) : step s = .next (s.setScript rest) := by
  obtain ⟨-, hreset, hcmd⟩ := HostAct.of_ignored ha
  rw [step_hostAccess hs hscript hreset hcmd, hostAccess, if_pos ha]

/-- In READY a write that fits existing cells takes effect (R38). -/
theorem step_write {s : State} {a : HostAct} {rest : List HostAct} (hs : s.status = .ready)
    (hscript : s.script = a :: rest) (hreads : a.reads = false) (hreset : a ≠ .hwReset) (hcmd : ∀ w, a ≠ .wrReg .cmd w)
    (hfits : a.fits s.par = true) (hcells : a.cellsExist s.par = true) :
    step s = .next ((s.setScript rest).hostWrite a) := by
  by_cases hi : a.ignored = true
  · rw [step_ignored (by simp [hs]) hscript hi, hostWrite_of_ignored hi]
  · rw [step_hostAccess (by simp [hs]) hscript hreset hcmd]
    simp [hostAccess, hi, hs, readyAccess, hfits, hcells, answer_eq_none hreads]

/-- In READY a read of a register other than CMD, or of existing cells, is answered and changes nothing else (R47). -/
theorem step_read {s : State} {a : HostAct} {rest : List HostAct} {v : PortVal} (hs : s.status = .ready)
    (hscript : s.script = a :: rest) (hcells : a.cellsExist s.par = true) (hcmd : a ≠ .rdReg .cmd)
    (hv : s.answer a = some v) : step s = .next ((s.setScript rest).setRdata v) := by
  obtain ⟨hi, hfits, hreset, hwrcmd⟩ := HostAct.of_reads (reads_of_answer hv) s.par
  rw [step_hostAccess (by simp [hs]) hscript hreset hwrcmd]
  simp [hostAccess, hi, hs, readyAccess, hfits, hcells, hv, hcmd]
  rfl

/-! ## Host accesses in FAULT -/

theorem faultAnswer_eq_none {s : State} {a : HostAct} (h : a.reads = false) : s.faultAnswer a = none := by
  cases a with
  | rdReg | rdBit | rdBytes | rdOut | rdTok | rdFreq | rdCt => cases h
  | wrReg | wrBit | wrBytes | wrOut | wrTok | wrFreq | wrCt | load | loadObuf | hwReset => rfl

/-- In FAULT a write that is ignored in every state is ignored like the others. -/
theorem hostAccess_fault {s : State} (hs : s.status = .fault) (a : HostAct) : hostAccess a s = faultAccess a s := by
  by_cases hi : a.ignored = true
  · obtain ⟨hreads, -⟩ := HostAct.of_ignored hi
    simp [hostAccess, hi, faultAccess, faultAnswer_eq_none hreads, hreads]
  · simp [hostAccess, hi, hs]

/-- Settles O13: in FAULT the step is the access, whose four outcomes `faultAccess_cases` lists. -/
theorem faultHostAccessChangesNothing : Obligations.FaultHostAccessChangesNothing := by
  intro s a rest hs hscript hreset hcmd
  rw [step_hostAccess (by simp [hs]) hscript hreset hcmd, hostAccess_fault (by simpa using hs)]
  obtain ⟨rfl, e⟩ | ⟨rfl, e⟩ | ⟨hreads, h1, h2, e⟩ | ⟨hreads, e⟩ := faultAccess_cases a (s.setScript rest)
  · rw [e]
    simp [HostAct.reads, hs, Status.code]
  · rw [e]
    simp [HostAct.reads]
  · rw [e]
    simp [hreads, h1, h2]
  · rw [e]
    refine ⟨fun _ => rfl, ?_, ?_, ?_⟩
    · rintro rfl
      cases hreads
    · rintro rfl
      cases hreads
    · intro h
      simp [hreads] at h

/-! ## Registers -/

theorem regValue_writeReg {s : State} {r : Reg} {v : Nat} (hr : r ∈ [Reg.pos, .inlen, .val, .olen, .ntok]) :
    (s.writeReg v r).regValue r = v := by
  cases r with
  | pos | inlen | val | olen | ntok => rfl
  | cmd | status | err | nbits | outlen => simp at hr

/-- Settles O18: a write to a register is a step, and so is the read that follows;
the ignored writes are those of R38. -/
theorem hostReadsBackTheRegisterItWrote : Obligations.HostReadsBackTheRegisterItWrote := by
  constructor
  · intro s r v rest hs hv hr hscript
    have hcmd : r ≠ .cmd := by
      rintro rfl
      simp at hr
    obtain ⟨-, hstatus, -, -, -, hrest⟩ := hostWrite_frame (s.setScript (.rdReg r :: rest)) (.wrReg r v)
    refine ⟨(s.setScript (.rdReg r :: rest)).hostWrite (.wrReg r v), ?_, ?_, ?_⟩
    · exact step_write hs hscript rfl (by simp) (by simpa using fun h => absurd h hcmd)
        (by simpa [HostAct.fits] using hv) rfl
    · refine step_read (hstatus.trans hs) hrest rfl (by simpa using hcmd) ?_
      exact congrArg (fun n => some (PortVal.reg n)) (regValue_writeReg hr)
    · refine ⟨?_, ?_, ?_, ?_, ?_⟩ <;> rintro rfl <;> rfl
  · rintro s a rest hs hscript (⟨r, v, hr, rfl⟩ | ⟨i, v, rfl⟩)
    · refine step_ignored hs hscript ?_
      simp only [List.mem_cons, List.not_mem_nil, or_false] at hr
      obtain rfl | rfl | rfl | rfl := hr <;> rfl
    · exact step_ignored hs hscript rfl

end Machine
end Sys2Proof
end

section
/-! SUPPORT. What the host reads back: the cell it wrote, every other cell and register as before, and the same answer
when it reads again (R38, R44 to R47, R72, R137). -/

namespace Sys2Proof.Machine

/-! ## What a write of cells changes of what reads answer -/

/-- A cell inside the run reads as written, whatever an unlisted cell `d` reads as. -/
theorem getD_read_writeSeq (m : Mem Bool) (i : Nat) (b : Bits) (a : Nat) (d : Bool) :
    (Mem.read (Mem.writeSeq m i b) a).getD d =
      if i ≤ a ∧ a < i + b.length then b.getD (a - i) false else (Mem.read m a).getD d := by
  rw [Mem.read_writeSeq]
  split_ifs with h
  · have hlt : a - i < b.length := by omega
    simp [hlt]
  · rfl

theorem bitAt_writeBits_self (s : State) (m : BitMem) (i a : Nat) (b : Bits) :
    (s.writeBits i b m).bitAt m a = if i ≤ a ∧ a < i + b.length then b.getD (a - i) false else s.bitAt m a := by
  cases m with
  | ibuf => exact getD_read_writeSeq _ _ _ _ _
  | obuf => exact getD_read_writeSeq _ _ _ _ _

theorem bitAt_writeBits_of_ne (s : State) {m m' : BitMem} (h : m' ≠ m) (i a : Nat) (b : Bits) :
    (s.writeBits i b m).bitAt m' a = s.bitAt m' a := by
  cases m with
  | ibuf =>
    cases m' with
    | ibuf => exact absurd rfl h
    | obuf => rfl
  | obuf =>
    cases m' with
    | ibuf => rfl
    | obuf => exact absurd rfl h

theorem freqCell_writeFreq (s : State) (k a : Nat) (v : BitVec 32) :
    (s.setFreq (Mem.writeFreq s.freq k v)).freqCell a = if a = k then v else s.freqCell a :=
  Mem.read_writeFreq s.freq k a v

theorem tokCell_writeTok (s : State) (i a c : Nat) :
    (s.setTok (Mem.write s.tok i c)).tokCell a = if a = i then c else s.tokCell a := by
  simp only [State.tokCell, State.setTok_tok, State.setTok_epoch, State.setTok_par, Mem.read_write]
  split_ifs <;> rfl

theorem ctEntry_hostWrite (s : State) (k a : Nat) (valid : Bool) (len : BitVec 7) (bits : BitVec 94) :
    (s.hostWrite (.wrCt k valid len bits)).ctEntry a =
      if a = k then (if valid then some { len := len, bits := bits } else none) else s.ctEntry a :=
  Mem.read_writeCt s.ct k a _

/-- A write to one entry leaves what another reads as, the open fields of an invalid one included (R47). -/
theorem ctPort_hostWrite_of_ne (s : State) {k a : Nat} (h : a ≠ k) (valid : Bool) (len : BitVec 7) (bits : BitVec 94) :
    (s.hostWrite (.wrCt k valid len bits)).ctPort a = s.ctPort a := by
  have hfree : (s.hostWrite (.wrCt k valid len bits)).ctFree a = s.ctFree a := by
    simp [State.ctFree, State.ctWritesAt, State.hostWrite, h]
  simp only [State.ctPort, ctEntry_hostWrite, if_neg h, hfree]

/-- No write but one to a register changes what a register reads as. -/
theorem regValue_hostWrite {s : State} {w : HostAct} (h : ∀ r v, w ≠ .wrReg r v) (r : Reg) :
    (s.hostWrite w).regValue r = s.regValue r := by
  cases w with
  | wrReg r' v => exact absurd rfl (h r' v)
  | wrBit m i b => cases m <;> cases r <;> rfl
  | wrBytes m j bs => cases m <;> cases r <;> rfl
  | _ => cases r <;> rfl

theorem ctPort_of_some {s : State} {k : Nat} {e : CtCell} (h : s.ctEntry k = some e) :
    s.ctPort k = .ct true e.len e.bits := by
  simp [State.ctPort, h]

theorem ctPort_of_none {s : State} {k : Nat} (h : s.ctEntry k = none) :
    s.ctPort k = .ct false (s.ctFree k).1 (s.ctFree k).2 := by
  simp [State.ctPort, h]

/-! ## One cell written -/

/-- The read of the cell that a write of one cell names. -/
def cellRead : HostAct → Option HostAct
  | .wrBit m i _ => some (.rdBit m i)
  | .wrTok i _ => some (.rdTok i)
  | .wrFreq k _ => some (.rdFreq k)
  | .wrCt k _ _ _ => some (.rdCt k)
  | _ => none

theorem cellRead_of_readBack {w r : HostAct} {v : PortVal} (h : readBack w = some (r, v)) : cellRead w = some r := by
  cases w with
  | wrCt k valid len bits => cases valid <;> simp_all [readBack, cellRead]
  | _ => simp_all [readBack, cellRead]

theorem of_cellRead {w r : HostAct} (h : cellRead w = some r) :
    w.reads = false ∧ w ≠ .hwReset ∧ (∀ r' v, w ≠ .wrReg r' v) ∧ r ≠ .rdReg .cmd ∧
      ∀ p, w.cellsExist p = r.cellsExist p := by
  cases w <;> simp only [cellRead, reduceCtorEq, Option.some.injEq] at h <;> subst h <;>
    simp [HostAct.reads, HostAct.cellsExist]

/-- The cell written is what the read of that cell answers. -/
theorem answer_hostWrite_same {w r : HostAct} {v : PortVal} (h : readBack w = some (r, v)) (s : State) :
    (s.hostWrite w).answer r = some v := by
  cases w with
  | wrBit m i b =>
    cases h
    simp [State.answer, State.hostWrite, bitAt_writeBits_self]
  | wrTok i c =>
    cases h
    simp [State.answer, State.hostWrite, tokCell_writeTok]
  | wrFreq k x =>
    cases h
    simp [State.answer, State.hostWrite, freqCell_writeFreq]
  | wrCt k valid len bits =>
    cases valid with
    | true =>
      cases h
      exact congrArg some (ctPort_of_some (e := { len := len, bits := bits }) (by simp [ctEntry_hostWrite]))
    | false => simp [readBack] at h
  | _ => simp [readBack] at h

/-- Every register and every cell but the one written answers as before. -/
theorem answer_hostWrite_other {w r r' : HostAct} (h : cellRead w = some r) (hone : readsOne r' = true) (hne : r' ≠ r)
    (s : State) : (s.hostWrite w).answer r' = s.answer r' := by
  obtain ⟨-, -, hnoreg, -, -⟩ := of_cellRead h
  have hreg : ∀ q, (s.hostWrite w).regValue q = s.regValue q := regValue_hostWrite hnoreg
  cases w with
  | wrBit m i b =>
    cases h
    cases r' with
    | rdReg q => exact congrArg (fun n => some (PortVal.reg n)) (hreg q)
    | rdBit m' a =>
      refine congrArg (fun x => some (PortVal.bit x)) ?_
      by_cases hm : m' = m
      · subst hm
        have hai : a ≠ i := by simpa using hne
        exact (bitAt_writeBits_self s m' i a [b]).trans (if_neg (by simp; omega))
      · exact bitAt_writeBits_of_ne s hm i a [b]
    | rdOut | rdTok | rdFreq | rdCt => cases m <;> rfl
    | _ => cases hone
  | wrTok i c =>
    cases h
    cases r' with
    | rdReg q => exact congrArg (fun n => some (PortVal.reg n)) (hreg q)
    | rdBit m a => cases m <;> rfl
    | rdTok a => simp [State.answer, State.hostWrite, tokCell_writeTok, show a ≠ i by simpa using hne]
    | rdOut | rdFreq | rdCt => rfl
    | _ => cases hone
  | wrFreq k x =>
    cases h
    cases r' with
    | rdReg q => exact congrArg (fun n => some (PortVal.reg n)) (hreg q)
    | rdBit m a => cases m <;> rfl
    | rdFreq a => simp [State.answer, State.hostWrite, freqCell_writeFreq, show a ≠ k by simpa using hne]
    | rdOut | rdTok | rdCt => rfl
    | _ => cases hone
  | wrCt k valid len bits =>
    cases h
    cases r' with
    | rdReg q => exact congrArg (fun n => some (PortVal.reg n)) (hreg q)
    | rdBit m a => cases m <;> rfl
    | rdCt a => exact congrArg some (ctPort_hostWrite_of_ne s (by simpa using hne) valid len bits)
    | rdOut | rdTok | rdFreq => rfl
    | _ => cases hone
  | _ => cases h

/-- In READY a write of one cell is a step, and the read of that cell that follows answers what the cell then holds. -/
theorem step_write_step_read {s : State} {w r : HostAct} {v : PortVal} {rest : List HostAct} (hs : s.status = .ready)
    (hfits : w.fits s.par = true) (hcells : w.cellsExist s.par = true) (hcell : cellRead w = some r)
    (hscript : s.script = w :: r :: rest) (hv : ((s.setScript (r :: rest)).hostWrite w).answer r = some v) :
    step s = .next ((s.setScript (r :: rest)).hostWrite w) ∧
      step ((s.setScript (r :: rest)).hostWrite w) =
        .next ((((s.setScript (r :: rest)).hostWrite w).setScript rest).setRdata v) := by
  obtain ⟨hreads, hreset, hreg, hcmd, hexist⟩ := of_cellRead hcell
  obtain ⟨hpar, hstatus, -, -, -, hrest⟩ := hostWrite_frame (s.setScript (r :: rest)) w
  refine ⟨step_write hs hscript hreads hreset (hreg .cmd) hfits hcells, step_read (hstatus.trans hs) hrest ?_ hcmd hv⟩
  rw [hpar, ← hexist]
  exact hcells

/-! ## LOAD (R137) -/

/-- A run of bits written to IBUF from cell 0 is what its first cells read as, and the cells beyond read as before. -/
theorem inBit_load (s : State) (b : Bits) (a : Nat) :
    (s.writeBits 0 b .ibuf).inBit a = if a < b.length then b.getD a false else s.inBit a := by
  simpa [State.bitAt] using bitAt_writeBits_self s .ibuf 0 a b

theorem inSeq_load (s : State) (b : Bits) : (s.writeBits 0 b .ibuf).inSeq 0 b.length = b := by
  refine List.ext_getElem (by simp [State.inSeq]) fun j h1 h2 => ?_
  simp [State.inSeq, getElem_inSeq, inBit_load, h2]

/-- Settles O19: a write is a step, and what each read answers after it follows from the memory it wrote. -/
theorem hostReadsBackTheCellItWrote : Obligations.HostReadsBackTheCellItWrote := by
  refine ⟨?_, ?_, ?_, ?_⟩
  · intro s w r v rest hs hfits hcells hback hscript
    have hcell := cellRead_of_readBack hback
    obtain ⟨h1, h2⟩ := step_write_step_read hs hfits hcells hcell hscript (answer_hostWrite_same hback _)
    obtain ⟨hpar, hstatus, -, hcur, htokLeft, hrest⟩ := hostWrite_frame (s.setScript (r :: rest)) w
    refine ⟨_, h1, h2, hrest, fun r' hone hne => ?_, hpar, hstatus, hcur, htokLeft⟩
    rw [answer_hostWrite_other hcell hone hne, answer_setScript]
  · intro s k len bits rest hs hk hscript
    have hnone : ((s.setScript (.rdCt k :: rest)).hostWrite (.wrCt k false len bits)).ctEntry k = none := by
      simp [ctEntry_hostWrite]
    obtain ⟨h1, h2⟩ := step_write_step_read hs rfl (by simpa [HostAct.cellsExist] using hk) rfl hscript
      (congrArg some (ctPort_of_none hnone))
    refine ⟨_, _, _, h1, h2, hnone, fun r' hone hne => ?_, rfl⟩
    rw [answer_hostWrite_other rfl hone hne, answer_setScript]
  · intro s b rest hs hlen hscript
    have hcells : HostAct.cellsExist s.par (.load b) = true := by simpa [HostAct.cellsExist] using hlen
    refine ⟨_, step_write hs hscript rfl (by simp) (by simp) rfl hcells, ?_, ?_, rfl⟩
    · exact inSeq_load _ b
    · intro a ha
      exact (inBit_load _ b a).trans (if_neg (by omega))
  · intro s n rest hs hin hob hscript
    have hcells : HostAct.cellsExist s.par (.loadObuf n) = true := by simp [HostAct.cellsExist, hin, hob]
    refine ⟨_, step_write hs hscript rfl (by simp) (by simp) rfl hcells, ?_, ?_, rfl⟩
    · intro a ha
      have hget : ((List.range n).map s.obufBit).getD a false = s.obufBit a := by simp [ha]
      exact ((inBit_load _ _ a).trans (if_pos (by simpa using ha))).trans hget
    · intro a ha
      exact (inBit_load _ _ a).trans (if_neg (by simpa using ha))

/-! ## Reading again -/

theorem answer_unique {s : State} {r : HostAct} {v x : PortVal} (hv : s.answer r = some v) (hx : s.answer r = some x) :
    v = x :=
  Option.some.inj (hv.symm.trans hx)

/-- The byte view of a bit memory: sequence bit 8j + k is bit 7 - k of byte j (R72). -/
theorem getLsbD_byteAt (s : State) (m : BitMem) (j : Nat) {k : Nat} (hk : k < 8) :
    (s.byteAt m j).getLsbD (7 - k) = s.bitAt m (8 * j + k) := by
  rw [State.byteAt, getLsbD_byteOfBits (by simp) (by simpa using hk)]
  simp

/-- Settles O20: a read answers what is held and changes nothing that a read answers. -/
theorem readingTwiceAnswersTheSame : Obligations.ReadingTwiceAnswersTheSame := by
  intro s r rest hs hcells hcmd hsome hscript
  obtain ⟨v, hv⟩ := Option.isSome_iff_exists.1 hsome
  refine ⟨v, step_read hs hscript hcells hcmd hv, step_read hs rfl hcells hcmd (by simpa using hv), ?status, ?_, ?_, ?_,
    ?_, ?_, ?_, ?_, ?_, ?_, ?_, ?_, ?_, ?_, ?validEntry, ?invalidEntry, ?bytes⟩
  case status =>
    rintro rfl
    exact answer_unique hv (by simp [State.answer, State.regValue, hs, Status.code])
  case validEntry =>
    rintro k e rfl he
    exact answer_unique hv (congrArg some (ctPort_of_some he))
  case invalidEntry =>
    rintro k rfl he
    exact ⟨_, _, answer_unique hv (congrArg some (ctPort_of_none he))⟩
  case bytes =>
    rintro m j n rfl
    refine ⟨_, answer_unique hv rfl, by simp, fun q b k hb hk => ?_⟩
    have hq : q < n := by simpa using (List.getElem?_eq_some_iff.1 hb).1
    obtain rfl : s.byteAt m (j + q) = b := by simpa [hq] using hb
    exact getLsbD_byteAt s m (j + q) hk
  -- the other registers and cells: the answer is the contents, by definition
  all_goals
    intros
    subst_vars
    exact answer_unique hv rfl

end Sys2Proof.Machine
end

section
/-! SUPPORT. The byte view of the bit memories on the writing side (R72), and appending bits to OBUF (R79, R144). -/

namespace Sys2Proof

@[simp] theorem length_bitsOfByte (b : Byte) : (bitsOfByte b).length = 8 := by simp [bitsOfByte]

@[simp] theorem length_bitsOfBytes (bs : List Byte) : (bitsOfBytes bs).length = 8 * bs.length := by
  simp [bitsOfBytes, Nat.mul_comm]

theorem getElem?_bitsOfByte (b : Byte) {k : Nat} (hk : k < 8) : (bitsOfByte b)[k]? = some (b.getLsbD (7 - k)) := by
  simp [bitsOfByte, hk]

/-- Bit 8q + k of a run of bytes in stream order is bit 7 - k of its byte q (R72). -/
theorem getElem?_bitsOfBytes {bs : List Byte} {q k : Nat} {b : Byte} (hb : bs[q]? = some b) (hk : k < 8) :
    (bitsOfBytes bs)[8 * q + k]? = some (b.getLsbD (7 - k)) := by
  induction bs generalizing q with
  | nil => simp at hb
  | cons c bs ih =>
    rw [bitsOfBytes, List.flatMap_cons]
    cases q with
    | zero =>
      obtain rfl : c = b := by simpa using hb
      rw [List.getElem?_append_left (by simpa using hk)]
      simpa using getElem?_bitsOfByte c hk
    | succ q =>
      rw [List.getElem?_append_right (by simp; omega), length_bitsOfByte, show 8 * (q + 1) + k - 8 = 8 * q + k by omega]
      exact ih (by simpa using hb)

namespace Machine

/-! ## Writing bytes -/

@[simp] theorem bitAt_setScript (s : State) (l : List HostAct) (m : BitMem) (a : Nat) :
    (s.setScript l).bitAt m a = s.bitAt m a := by
  cases m <;> rfl

/-- A run of bytes written to a bit memory is what its cells read as, as far as the memory has them; every other cell
reads as before (R72). -/
theorem bitAt_hostWrite_wrBytes (s : State) (m : BitMem) (j : Nat) (bs : List Byte) (a : Nat) :
    (s.hostWrite (.wrBytes m j bs)).bitAt m a =
      if 8 * j ≤ a ∧ a < 8 * (j + bs.length) ∧ a < m.size s.par then (bitsOfBytes bs).getD (a - 8 * j) false
      else s.bitAt m a := by
  rw [State.hostWrite, bitAt_writeBits_self, List.length_take, length_bitsOfBytes]
  by_cases h : 8 * j ≤ a ∧ a < 8 * (j + bs.length) ∧ a < m.size s.par
  · have hlt : a - 8 * j < m.size s.par - 8 * j := by omega
    rw [if_pos h, if_pos (by omega), List.getD, List.getElem?_take_of_lt hlt]
    rfl
  · rw [if_neg h, if_neg (by omega)]

/-- Settles O21: the write is a step, and the bit it puts at 8(j+q)+k is the one at 8q + k of the run of bytes. -/
theorem portBytesHoldTheEarlierBitHigher : Obligations.PortBytesHoldTheEarlierBitHigher := by
  intro s m j bs rest hs hbytes hscript
  obtain ⟨-, -, -, -, -, hrest⟩ := hostWrite_frame (s.setScript rest) (.wrBytes m j bs)
  have hcells : HostAct.cellsExist s.par (.wrBytes m j bs) = true := by simpa [HostAct.cellsExist] using hbytes
  refine ⟨_, step_write hs hscript rfl (by simp) (by simp) rfl hcells, hrest, ?written, ?outside, ?otherMemory⟩
  case written =>
    intro q k b hb hk hsize
    have hq : q < bs.length := (List.getElem?_eq_some_iff.1 hb).1
    have hoff : 8 * (j + q) + k - 8 * j = 8 * q + k := by omega
    rw [bitAt_hostWrite_wrBytes, if_pos ⟨by omega, by omega, by simpa using hsize⟩, hoff, List.getD,
      getElem?_bitsOfBytes hb hk]
    rfl
  case outside =>
    intro a ha
    rw [bitAt_hostWrite_wrBytes, if_neg (by simp only [State.setScript_par]; omega), bitAt_setScript]
  case otherMemory =>
    intro m' hm a
    exact (bitAt_writeBits_of_ne _ hm _ a _).trans (bitAt_setScript s rest m' a)

/-! ## Appending bits -/

/-- Writing bits from OLEN on and moving OLEN past them appends them: the cells before OLEN and beyond the new one read
as before (R79). -/
theorem appendedBits_writeSeq (s : State) (b : Bits) :
    AppendedBits s ((s.setObuf (Mem.writeSeq s.obuf s.olen b)).setOlen (s.olen + b.length)) b := by
  refine ⟨rfl, fun i hi => ?_, fun a ha => ?_⟩
  · simp [Mem.read_writeSeq, hi]
  · exact (Mem.read_writeSeq _ _ _ a).trans (if_neg (by omega))

/-- Appending nothing changes nothing, where OLEN is legal. -/
theorem emit_nil {s : State} (h : s.olen ≤ s.par.obMax) : emit s [] = .ok s := emit_ok_iff.2 ⟨h, rfl⟩

theorem eoEmit_zero (s : State) : eoEmit s 0 = .error .invalidInput := rfl

theorem eoEmit_of_ne_zero (s : State) {n : Nat} (h : n ≠ 0) : eoEmit s n = emit s (eoCode n) := if_neg h

/-- Settles O22: `emit_error_iff` and `emit_ok_iff` say which of the two happens, the frame is that of the one write. -/
theorem emitAppendsAllBitsOrNone : Obligations.EmitAppendsAllBitsOrNone := by
  intro s b n
  refine ⟨fun hfull => emit_error_iff.2 ⟨hfull, rfl⟩, fun hfits => ?_, emit_nil, eoEmit_zero s, eoEmit_of_ne_zero s⟩
  exact ⟨_, emit_ok_iff.2 ⟨hfits, rfl⟩, appendedBits_writeSeq s b, rfl⟩

end Machine
end Sys2Proof
end

section
/-! SUPPORT. Instruction words (R120, R130): decoding and encoding agree, and what a write of a command word is in a step
(R134, R250). -/

namespace Sys2Proof

/-! ## Decoding a command word -/

/-- The words of the table in the other direction: an OP code that names an operation is that operation's word (R120). -/
theorem encodeInstr_of_decodeOp {n : Nat} {i : Instr} (h : decodeOp n = some i) :
    encodeInstr i = .command (BitVec.ofNat 8 n) := by
  unfold decodeOp at h
  split at h <;> cases h <;> rfl

/-- A command word with zero reserved bits is its OP field (R32). -/
theorem ofNat_opField {w : Byte} (h : rsvdField w = 0) : BitVec.ofNat 8 (opField w) = w := by
  unfold rsvdField at h
  unfold opField
  rw [Nat.mod_eq_of_lt (by omega), BitVec.ofNat_toNat, BitVec.setWidth_eq]

/-- Everything decoding a command word can do (R120, R134). -/
theorem decodeCmd_ok_iff {w : Byte} {i : Instr} :
    decodeCmd w = .ok i ↔ rsvdField w = 0 ∧ decodeOp (opField w) = some i := by
  unfold decodeCmd
  by_cases hr : rsvdField w = 0
  · cases hop : decodeOp (opField w) <;> simp [hr]
  · simp [hr]

theorem decodeWord_encodeInstr (i : Instr) : decodeWord (encodeInstr i) = .ok i := by
  cases i <;> rfl

theorem encodeInstr_of_decodeWord {w : InstrWord} {i : Instr} (h : decodeWord w = .ok i) : encodeInstr i = w := by
  cases w with
  | command w =>
    obtain ⟨hr, hop⟩ := decodeCmd_ok_iff.1 h
    rw [encodeInstr_of_decodeOp hop, ofNat_opField hr]
  | token f =>
    cases f <;> cases h <;> rfl

/-- Settles O4: a word that decodes has zero reserved bits and an OP code of the table, which is the instruction's
word. -/
theorem instructionWordsDecodeToTheirInstruction : Obligations.InstructionWordsDecodeToTheirInstruction :=
  ⟨decodeWord_encodeInstr, fun _ _ => encodeInstr_of_decodeWord⟩

/-- Settles O5: the words written out are the words of the instructions, which decode to them. -/
theorem writtenOutWordsDecode : Obligations.WrittenOutWordsDecode :=
  ⟨decodeWord_encodeInstr .eoEnc, decodeWord_encodeInstr .eoDec, decodeWord_encodeInstr .hufBuild,
    decodeWord_encodeInstr .hdrSer, decodeWord_encodeInstr .hdrDes, decodeWord_encodeInstr .tokSer,
    decodeWord_encodeInstr .tokDes, decodeWord_encodeInstr .encode, decodeWord_encodeInstr .decode,
    decodeWord_encodeInstr .reset, decodeWord_encodeInstr .litTok, decodeWord_encodeInstr .matchTok⟩

/-! ## Reserved command words -/

/-- The reserved OP codes name no operation (R134). -/
theorem decodeOp_reserved {n : Nat} (h : n = 0 ∨ (10 ≤ n ∧ n ≤ 14)) : decodeOp n = none := by
  obtain rfl | ⟨hlow, hhigh⟩ := h
  · rfl
  · interval_cases n <;> rfl

/-- A command word with a reserved bit set or a reserved OP code does not decode (R134). -/
theorem decodeCmd_reserved {w : Byte} (h : rsvdField w ≠ 0 ∨ opField w = 0 ∨ (10 ≤ opField w ∧ opField w ≤ 14)) :
    ∃ e, decodeCmd w = .error e := by
  cases hw : decodeCmd w with
  | error e => exact ⟨e, rfl⟩
  | ok i =>
    obtain ⟨hr, hop⟩ := decodeCmd_ok_iff.1 hw
    rw [decodeOp_reserved (h.resolve_left (not_not_intro hr))] at hop
    cases hop

namespace Machine

/-- Outside BUSY a command word written to CMD is fetched in that step (R250, R301). -/
theorem step_writeCmd {s : State} {w : Nat} {rest : List HostAct} (hs : s.status ≠ .busy) (hw : w < 256)
    (hscript : s.script = .wrReg .cmd w :: rest) :
    step s = runFetched (fetchCommand (BitVec.ofNat 8 w) (s.setScript rest)) := by
  rw [step_eq_runFetched]
  obtain ⟨rest', h, -⟩ | ⟨-, h, -⟩ | ⟨-, h, -⟩ | ⟨-, a', rest', h, -, e⟩ := fetch_cases s
  · simp [hscript] at h
  · exact absurd h hs
  · simp [hscript] at h
  · obtain ⟨rfl, rfl⟩ := List.cons.inj (hscript.symm.trans h)
    rw [e, fetchHost, if_pos hw]

/-- A word that does not decode is fault entry in READY (R250). -/
theorem fetchCommand_ready_error {w : Byte} {s : State} {e : DecodeError} (hs : s.status = .ready)
    (hw : decodeCmd w = .error e) : fetchCommand w s = .settled (.next (s.faultEntry .illegalCommand)) := by
  simp [fetchCommand, hs, hw]

/-- A word that does not decode is ignored in FAULT (R251). -/
theorem fetchCommand_fault_error {w : Byte} {s : State} {e : DecodeError} (hs : s.status = .fault)
    (hw : decodeCmd w = .error e) : fetchCommand w s = .settled (.next s) := by
  simp [fetchCommand, hs, hw]

/-- Settles O6: the word does not decode, so the step is fault entry in READY and nothing in FAULT. -/
theorem reservedCommandWordsRaiseIllegalCommand : Obligations.ReservedCommandWordsRaiseIllegalCommand := by
  intro s w rest hw hscript hreserved
  have hfield : (BitVec.ofNat 8 w).toNat = w := by simpa using hw
  obtain ⟨e, he⟩ : ∃ e, decodeCmd (BitVec.ofNat 8 w) = .error e :=
    decodeCmd_reserved (by simpa only [rsvdField, opField, hfield] using hreserved)
  constructor
  · intro hs
    rw [step_writeCmd (by simp [hs]) hw hscript, fetchCommand_ready_error (by simpa using hs) he]
    exact ⟨_, rfl, ⟨rfl, rfl⟩, rfl⟩
  · intro hs
    rw [step_writeCmd (by simp [hs]) hw hscript, fetchCommand_fault_error (by simpa using hs) he]
    rfl

end Machine
end Sys2Proof
end

section
/-! SUPPORT. The Elias-omega code (R101, R140, R146): its closed form, and the decoder on a source that holds a code. -/

namespace Sys2Proof

open Machine

/-! ## The value of a group -/

theorem val_cons (x : Bool) (b : Bits) : val (x :: b) = x.toNat * 2 ^ b.length + val b := by
  induction b using List.reverseRecOn with
  | nil => simp [val]
  | append_singleton b y ih =>
    rw [← List.cons_append, val_append_singleton, val_append_singleton, ih, List.length_append, List.length_singleton,
      pow_succ]
    ring

/-- The first bit of a number written without leading zeros is 1 (R11). -/
theorem bin_eq_cons {n : Nat} (h : 1 ≤ n) : bin n = true :: (bin n).tail := by
  have hne : 0 < (bin n).length := by
    rw [length_bin]
    exact bitlen_pos n
  have htop : (bin n)[0] = true := by
    simp only [bin, getElem_binN, bitlen, Nat.add_sub_cancel, Nat.sub_zero]
    rw [Nat.testBit_log2]
    omega
  rw [← htop, ← List.drop_one, List.getElem_cons_drop, List.drop_zero]

/-- The group of a length is its binary with the first bit cleared, so the bits after the flag are the length without its
highest bit (R101, R146). -/
theorem val_tail_bin {l : Nat} (h : 1 ≤ l) : val (bin l).tail + 2 ^ (bitlen l - 1) = l := by
  have hval : val (true :: (bin l).tail) = l := by rw [← bin_eq_cons h, val_bin h]
  rw [val_cons, List.length_tail, length_bin] at hval
  simpa [Nat.add_comm] using hval

theorem bitlen_sub_one_lt {l : Nat} (h : l ≠ 0) : bitlen l - 1 < l := by
  simpa [bitlen] using (Nat.log2_lt h).2 Nat.lt_two_pow_self

theorem bitlen_le_of_lt_two_pow {n m : Nat} (hn : 1 ≤ n) (h : n < 2 ^ m) : bitlen n ≤ m :=
  (Nat.log2_lt (by omega)).2 h

/-! ## The closed form (R141) -/

/-- The loop of `EOCode` prepends the length groups (R140, R141). -/
theorem eoCodeLoop_eq (fuel : Nat) (g code : Bits) : eoCodeLoop fuel g code = eoPrefix fuel (g.length - 1) ++ code := by
  induction fuel generalizing g code with
  | zero => rfl
  | succ fuel ih =>
    simp only [eoCodeLoop, eoPrefix]
    split_ifs
    · rfl
    · rw [ih, List.append_assoc]
      simp [length_bin]

theorem eoCode_eq (n : Nat) : eoCode n = eoPrefix (bitlen n) (bitlen n - 1) ++ bin n := by
  rw [eoCode, eoCodeLoop_eq, length_bin]

/-! ## One round of the decoder (R146) -/

section
variable {maxGroup len p fuel r c : Nat} {bit : Nat → Bool}

/-- The first bit of a group read is the source's bit at the group's index. -/
theorem bit_of_inSeq_eq_cons {x : Bool} {b : Bits} (h : inSeq bit c r = x :: b) : bit c = x := by
  cases r with
  | zero => cases h
  | succ r => simpa [inSeq, List.range_succ_eq_map] using congrArg List.head? h

/-- A group that begins with 1 is the value group. -/
theorem eoDecodeLoop_valueGroup {n : Nat} (hn : 1 ≤ n) (hread : inSeq bit c (bitlen n) = bin n)
    (hend : c + bitlen n ≤ len) :
    eoDecodeLoop maxGroup bit len p (fuel + 1) (bitlen n) c = .value n (c + bitlen n - p) := by
  have havail : avail len c (bitlen n) = true := avail_iff.2 hend
  have hflag : bit c = true := bit_of_inSeq_eq_cons (hread.trans (bin_eq_cons hn))
  simp [eoDecodeLoop, havail, hflag, inBits, hread, val_bin hn]

/-- A group that begins with 0 is the group of a length `l`; the next group has `l + 1` bits, where the bound allows
it. -/
theorem eoDecodeLoop_lengthGroup {l : Nat} (hl : 1 ≤ l) (hread : inSeq bit c (bitlen l) = false :: (bin l).tail)
    (hend : c + bitlen l ≤ len) (hbound : l + 1 ≤ maxGroup) :
    eoDecodeLoop maxGroup bit len p (fuel + 1) (bitlen l) c =
      eoDecodeLoop maxGroup bit len p fuel (l + 1) (c + bitlen l) := by
  have havail : avail len c (bitlen l) = true := avail_iff.2 hend
  have hflag : bit c = false := bit_of_inSeq_eq_cons hread
  have hlength : inBits bit c (bitlen l) + 2 ^ (bitlen l - 1) = l := by
    simpa [inBits, hread, val_cons] using val_tail_bin hl
  simp [eoDecodeLoop, havail, hflag, hlength, Nat.not_le.2 hbound]

end

/-! ## The decoder on a code -/

/-- Over the length groups of `l` the decoder comes to a group of `l + 1` bits, a round for each group; there are no more
groups than `l`, so that many rounds of fuel pay for them. -/
theorem eoDecodeLoop_eoPrefix {maxGroup len p c l f fuel : Nat} {bit : Nat → Bool} (hf : l ≤ f) (hfuel : l ≤ fuel)
    (hbound : l + 1 ≤ maxGroup) (hread : inSeq bit c (eoPrefix f l).length = eoPrefix f l)
    (hend : c + (eoPrefix f l).length ≤ len) :
    ∃ fuel', fuel ≤ fuel' + l ∧ eoDecodeLoop maxGroup bit len p fuel 1 c =
      eoDecodeLoop maxGroup bit len p fuel' (l + 1) (c + (eoPrefix f l).length) := by
  induction f generalizing l with
  | zero =>
    obtain rfl : l = 0 := by omega
    exact ⟨fuel, le_rfl, rfl⟩
  | succ f ih =>
    by_cases hl : l = 0
    · subst hl
      exact ⟨fuel, le_rfl, rfl⟩
    have hshorter : bitlen l - 1 < l := bitlen_sub_one_lt hl
    have hgroup : (false :: (bin l).tail).length = bitlen l := by
      rw [List.length_cons, List.length_tail, length_bin, Nat.sub_add_cancel (bitlen_pos l)]
    rw [eoPrefix, if_neg hl] at hread hend ⊢
    obtain ⟨hreadPrefix, hreadGroup⟩ := (inSeq_append_iff ..).1 hread
    rw [hgroup] at hreadGroup
    rw [List.length_append, hgroup] at hend ⊢
    obtain ⟨fuel', hleft, hloop⟩ := ih (l := bitlen l - 1) (by omega) (by omega) (by omega) hreadPrefix (by omega)
    obtain ⟨rounds, rfl⟩ : ∃ rounds, fuel' = rounds + 1 := ⟨fuel' - 1, by omega⟩
    refine ⟨rounds, by omega, ?_⟩
    rw [hloop, Nat.sub_add_cancel (bitlen_pos l), eoDecodeLoop_lengthGroup (by omega) hreadGroup (by omega) hbound,
      Nat.add_assoc c]

/-- Decode of encode (R149): where the code of an integer within the bound stands, it is read back with its length,
whatever bits follow. -/
theorem eoDecode_eoCode {maxGroup len p n : Nat} {bit : Nat → Bool} (hn : 1 ≤ n) (hbound : n < 2 ^ maxGroup)
    (hread : inSeq bit p (eoCode n).length = eoCode n) (hend : p + (eoCode n).length ≤ len) :
    eoDecode maxGroup bit len p = .value n (eoCode n).length := by
  have hpos : 1 ≤ bitlen n := bitlen_pos n
  have hle : bitlen n ≤ maxGroup := bitlen_le_of_lt_two_pow hn hbound
  rw [eoCode_eq] at hread hend ⊢
  obtain ⟨hreadPrefix, hreadValue⟩ := (inSeq_append_iff ..).1 hread
  rw [length_bin] at hreadValue
  rw [List.length_append, length_bin] at hend ⊢
  obtain ⟨fuel', hleft, hloop⟩ := eoDecodeLoop_eoPrefix (maxGroup := maxGroup) (len := len) (p := p)
    (fuel := maxGroup + 1) (by omega) (by omega) (by omega) hreadPrefix (by omega)
  obtain ⟨rounds, rfl⟩ : ∃ rounds, fuel' = rounds + 1 := ⟨fuel' - 1, by omega⟩
  rw [eoDecode, hloop, Nat.sub_add_cancel hpos, eoDecodeLoop_valueGroup hn hreadValue (by omega), Nat.add_assoc,
    Nat.add_sub_cancel_left]

/-! ## No code begins another (R132) -/

/-- The bit source that holds `b` from index 0 on. -/
def sourceOf (b : Bits) (i : Nat) : Bool := b.getD i false

theorem inSeq_sourceOf {a b : Bits} (h : a <+: b) : inSeq (sourceOf b) 0 a.length = a := by
  refine List.ext_getElem (by simp) fun j _ hj => ?_
  simp [getElem_inSeq, sourceOf, List.getD, ← h.getElem hj, hj.trans_le h.length_le]

/-- The code of an integer at the beginning of a bit sequence is read there, under any bound that allows it. -/
theorem eoDecode_sourceOf {maxGroup m : Nat} {b : Bits} (hm : 1 ≤ m) (hbound : m < 2 ^ maxGroup) (h : eoCode m <+: b) :
    eoDecode maxGroup (sourceOf b) b.length 0 = .value m (eoCode m).length :=
  eoDecode_eoCode hm hbound (inSeq_sourceOf h) (by simpa using h.length_le)

/-- Settles O25: at the beginning of the longer code the decoder reads both integers. -/
theorem eliasOmegaCodesArePrefixFree : Obligations.EliasOmegaCodesArePrefixFree := by
  intro m n hm hn hprefix
  have hmbound : m < 2 ^ max m n := Nat.lt_two_pow_self.trans_le (Nat.pow_le_pow_right two_pos (le_max_left m n))
  have hnbound : n < 2 ^ max m n := Nat.lt_two_pow_self.trans_le (Nat.pow_le_pow_right two_pos (le_max_right m n))
  have hreadm := eoDecode_sourceOf hm hmbound hprefix
  have hreadn := eoDecode_sourceOf hn hnbound (List.prefix_refl (eoCode n))
  exact (EORes.value.inj (hreadm.symm.trans hreadn)).1

end Sys2Proof
end

section
/-! SUPPORT. Reading a token (R105, R106, R115, R221): the codeword match under a table in which no
codeword begins another, and the operands. -/

namespace Sys2Proof

open Machine

/-! ## The codeword match (R221) -/

theorem mem_of_tableLookup {table : List (Nat × Bits)} {k : Nat} {cw : Bits} (h : tableLookup table k = some cw) :
    (k, cw) ∈ table := by
  induction table with
  | nil => cases h
  | cons e table ih =>
    obtain ⟨j, cw'⟩ := e
    rw [tableLookup] at h
    split_ifs at h with hjk
    · obtain rfl := Option.some.inj h
      simp [hjk]
    · exact List.mem_cons_of_mem _ (ih h)

theorem mem_codewordMatches {table : List (Nat × Bits)} {bit : Nat → Bool} {len cur : Nat} {e : Nat × Bits} :
    e ∈ codewordMatches table bit len cur ↔
      e ∈ table ∧ cur + e.2.length ≤ len ∧ inSeq bit cur e.2.length = e.2 := by
  simp [codewordMatches, avail_iff]

/-- Of two reads at one index the longer begins with the shorter. -/
theorem inSeq_prefix (bit : Nat → Bool) (c : Nat) {m n : Nat} (h : m ≤ n) : inSeq bit c m <+: inSeq bit c n := by
  obtain ⟨d, rfl⟩ := Nat.exists_eq_add_of_le h
  exact ⟨_, (inSeq_add bit c m d).symm⟩

/-- Of two codewords at one index, one begins with the other; where no codeword begins another entry's they are one
entry's (R16). -/
theorem entry_unique {table : List (Nat × Bits)} {bit : Nat → Bool} {cur : Nat} {a b : Nat × Bits}
    (hnodup : (table.map Prod.fst).Nodup) (hfree : PrefixFree table) (ha : a ∈ table) (hb : b ∈ table)
    (hreada : inSeq bit cur a.2.length = a.2) (hreadb : inSeq bit cur b.2.length = b.2) : a = b := by
  refine List.inj_on_of_nodup_map hnodup ha hb (by_contra fun hne => ?_)
  have hprefix : a.2 <+: b.2 ∨ b.2 <+: a.2 := by
    rw [← hreada, ← hreadb]
    exact (Nat.le_total a.2.length b.2.length).imp (inSeq_prefix bit cur) (inSeq_prefix bit cur)
  exact hprefix.elim (hfree a ha b hb hne) (hfree b hb a ha (Ne.symm hne))

/-- Where no codeword begins another, an entry whose codeword stands at the cursor is the only match (R115, R221). -/
theorem codewordMatches_eq_singleton {table : List (Nat × Bits)} {bit : Nat → Bool} {len cur : Nat} {e : Nat × Bits}
    (hnodup : (table.map Prod.fst).Nodup) (hfree : PrefixFree table) (he : e ∈ table)
    (hread : inSeq bit cur e.2.length = e.2) (hend : cur + e.2.length ≤ len) :
    codewordMatches table bit len cur = [e] := by
  have hmatches : (codewordMatches table bit len cur).Nodup := (hnodup.of_map Prod.fst).filter _
  refine List.perm_singleton.1 ((List.perm_ext_iff_of_nodup hmatches (List.nodup_singleton e)).2 fun a => ?_)
  rw [mem_codewordMatches, List.mem_singleton]
  constructor
  · rintro ⟨ha, -, hreada⟩
    exact entry_unique hnodup hfree ha he hreada hread
  · rintro rfl
    exact ⟨he, hend, hread⟩

/-! ## The operands -/

/-- Where the codeword of a symbol stands, the literal's operand is that symbol (R220). -/
theorem readLit_codeword {symMin len cur : Nat} {table : List (Nat × Bits)} {bit : Nat → Bool} {s : Sym} {cw : Bits}
    (hnodup : (table.map Prod.fst).Nodup) (hfree : PrefixFree table) (hs : symMin ≤ s.toNat)
    (hcw : tableLookup table (s.toNat - symMin) = some cw) (hread : inSeq bit cur cw.length = cw)
    (hend : cur + cw.length ≤ len) : readLit symMin table bit len cur = .ok (s, cw.length) := by
  rw [readLit, codewordMatches_eq_singleton hnodup hfree (mem_of_tableLookup hcw) hread hend]
  simp [Nat.add_sub_cancel' hs]

/-- Where the code of an integer within the bound stands, a match's integer is that one (R222). -/
theorem readMatchInt_eoCode {maxGroup len cur n : Nat} {bit : Nat → Bool} (hn : 1 ≤ n) (hbound : n < 2 ^ maxGroup)
    (hread : inSeq bit cur (eoCode n).length = eoCode n) (hend : cur + (eoCode n).length ≤ len) :
    readMatchInt maxGroup bit len cur = .ok (n, (eoCode n).length) := by
  rw [readMatchInt, eoDecode_eoCode hn hbound hread hend]

/-- Where the two codes of a match stand, its operands are the two integers (R222). -/
theorem readMatch_eoCode {maxGroup len cur o l : Nat} {bit : Nat → Bool} (ho : 1 ≤ o) (hobound : o < 2 ^ maxGroup)
    (hl : 1 ≤ l) (hlbound : l < 2 ^ maxGroup)
    (hread : inSeq bit cur (eoCode o ++ eoCode l).length = eoCode o ++ eoCode l)
    (hend : cur + (eoCode o ++ eoCode l).length ≤ len) :
    readMatch maxGroup bit len cur = .ok (o, l, (eoCode o ++ eoCode l).length) := by
  obtain ⟨hreado, hreadl⟩ := (inSeq_append_iff ..).1 hread
  rw [List.length_append] at hend ⊢
  have hoffset := readMatchInt_eoCode (len := len) ho hobound hreado (by omega)
  have hlength := readMatchInt_eoCode (len := len) hl hlbound hreadl (by omega)
  simp only [readMatch, hoffset, hlength]

/-! ## A whole token -/

/-- The flag is the first bit of a token, and the operands are read from the next one on (R130). -/
theorem inSeq_cons_iff (bit : Nat → Bool) (c : Nat) (x : Bool) (b : Bits) :
    inSeq bit c (x :: b).length = x :: b ↔ bit c = x ∧ inSeq bit (c + 1) b.length = b := by
  have h := inSeq_append_iff bit c [x] b
  simpa [inSeq] using h

/-- Settles O45: after the flag, a literal is the unique codeword match (R115) and a match is two codes read back
(R149). -/
theorem tokenDecodingInvertsEncoding : Obligations.TokenDecodingInvertsEncoding := by
  intro p table t b bit len q _ hnodup hfree ht henc hread hend
  cases t with
  | lit s =>
    simp only [encodeToken] at henc
    split_ifs at henc with hs
    obtain ⟨cw, hcw, rfl⟩ := Option.map_eq_some_iff.1 henc
    obtain ⟨hflag, hreadcw⟩ := (inSeq_cons_iff ..).1 hread
    rw [List.length_cons] at hend ⊢
    have havail : avail len q 1 = true := avail_iff.2 (by omega)
    have hlit := readLit_codeword (len := len) hnodup hfree hs hcw hreadcw (by omega)
    simp [decodeToken, havail, hflag, hlit, Nat.add_comm]
  | mtch o l =>
    obtain rfl := Option.some.inj henc
    simp only [Token.wf, Bool.and_eq_true, decide_eq_true_eq] at ht
    obtain ⟨⟨⟨ho, hl⟩, hobound⟩, hlbound⟩ := ht
    obtain ⟨hflag, hreadcodes⟩ := (inSeq_cons_iff ..).1 hread
    rw [List.length_cons] at hend ⊢
    have havail : avail len q 1 = true := avail_iff.2 (by omega)
    have hmatch := readMatch_eoCode (maxGroup := p.eoMaxGroup) (len := len) ho hobound hl hlbound hreadcodes (by omega)
    simp [decodeToken, havail, hflag, hmatch, Nat.add_comm]

end Sys2Proof
end


section
/-! SUPPORT. The Elias-omega code in both directions (R140, R141, R146, R149): the length groups with fuel enough, what
a decoded integer says of the bits read, and codes that are over-long or cut off (R147, R274). -/

namespace Sys2Proof

open Machine

/-! ## The length groups (R141) -/

/-- `P(l)` of the closed form (R141): the length groups before a group of `l + 1` bits. -/
def eoGroups (l : Nat) : Bits := eoPrefix l l

/-- A length group has as many bits as the length it holds (R140). -/
theorem length_lengthGroup (l : Nat) : (false :: (bin l).tail).length = bitlen l := by
  rw [List.length_cons, List.length_tail, length_bin, Nat.sub_add_cancel (bitlen_pos l)]

/-- There are no more groups than `l`, so all fuel from `l` on gives the same. -/
theorem eoPrefix_congr {f g l : Nat} (hf : l ≤ f) (hg : l ≤ g) : eoPrefix f l = eoPrefix g l := by
  induction f generalizing g l with
  | zero =>
    obtain rfl : l = 0 := by omega
    cases g <;> rfl
  | succ f ih =>
    by_cases hl : l = 0
    · subst hl
      cases g <;> rfl
    obtain ⟨g, rfl⟩ : ∃ g', g = g' + 1 := ⟨g - 1, by omega⟩
    have hshorter : bitlen l - 1 < l := bitlen_sub_one_lt hl
    rw [eoPrefix, eoPrefix, if_neg hl, if_neg hl, ih (g := g) (by omega) (by omega)]

theorem eoPrefix_eq_eoGroups {f l : Nat} (hf : l ≤ f) : eoPrefix f l = eoGroups l := eoPrefix_congr hf le_rfl

@[simp] theorem eoGroups_zero : eoGroups 0 = [] := rfl

theorem eoGroups_of_ne_zero {l : Nat} (hl : l ≠ 0) :
    eoGroups l = eoGroups (bitlen l - 1) ++ (false :: (bin l).tail) := by
  have hshorter : bitlen l - 1 < l := bitlen_sub_one_lt hl
  obtain ⟨f, rfl⟩ : ∃ f, l = f + 1 := ⟨l - 1, by omega⟩
  rw [eoGroups, eoPrefix, if_neg hl, eoPrefix_eq_eoGroups (by omega)]

theorem eoCode_eq_eoGroups (n : Nat) : eoCode n = eoGroups (bitlen n - 1) ++ bin n := by
  rw [eoCode_eq, eoPrefix_eq_eoGroups (Nat.sub_le _ _)]

theorem eoLen_eq (n : Nat) : eoLen n = (eoGroups (bitlen n - 1)).length + bitlen n := by
  rw [eoLen, eoCode_eq_eoGroups, List.length_append, length_bin]

theorem lengthGroups_eq_eoGroups (n : Nat) : lengthGroups n = eoGroups (bitlen n - 1) := by
  rw [lengthGroups, eoLen_eq, Nat.add_sub_cancel, eoCode_eq_eoGroups, List.take_left]

theorem eoCode_eq_lengthGroups (n : Nat) : eoCode n = lengthGroups n ++ bin n := by
  rw [lengthGroups_eq_eoGroups, eoCode_eq_eoGroups]

/-! ## The length of a code (R141) -/

/-- The length groups before a group of `l + 1` bits are the code of `l` with one bit cleared, so they are as long. -/
theorem length_eoGroups {l : Nat} (hl : l ≠ 0) : (eoGroups l).length = eoLen l := by
  rw [eoGroups_of_ne_zero hl, List.length_append, length_lengthGroup, eoLen_eq]

theorem eoLen_recursion (n : Nat) : eoLen n = bitlen n + (if bitlen n = 1 then 0 else eoLen (bitlen n - 1)) := by
  have hpos : 1 ≤ bitlen n := bitlen_pos n
  rw [eoLen_eq, Nat.add_comm]
  split_ifs with h
  · simp [h]
  · rw [length_eoGroups (by omega)]

/-- Settles O23: `eoCode_eq_eoGroups` and `eoLen_recursion`. -/
theorem eliasOmegaClosedForm : Obligations.EliasOmegaClosedForm := by
  intro n hn
  have hshorter : bitlen n - 1 < n := bitlen_sub_one_lt (by omega)
  rw [eoPrefix_eq_eoGroups hshorter.le]
  exact ⟨eoCode_eq_eoGroups n, eoLen_recursion n⟩

theorem eoLen_pos (n : Nat) : 1 ≤ eoLen n := by
  have hpos : 1 ≤ bitlen n := bitlen_pos n
  rw [eoLen_eq]
  omega

theorem bitlen_mono {m n : Nat} (hm : 1 ≤ m) (hmn : m ≤ n) : bitlen m ≤ bitlen n :=
  bitlen_le_of_lt_two_pow hm (hmn.trans_lt (bitlen_spec (hm.trans hmn)).2)

/-- A larger integer has no shorter code. -/
theorem eoLen_mono {m n : Nat} (hm : 1 ≤ m) (hmn : m ≤ n) : eoLen m ≤ eoLen n := by
  induction n using Nat.strong_induction_on generalizing m with
  | _ n ih =>
    have hvalue : bitlen m ≤ bitlen n := bitlen_mono hm hmn
    have hpos : 1 ≤ bitlen m := bitlen_pos m
    have hshorter : bitlen n - 1 < n := bitlen_sub_one_lt (by omega)
    rw [eoLen_recursion m, eoLen_recursion n]
    by_cases h : bitlen m = 1
    · rw [if_pos h]
      omega
    · have hgroups : eoLen (bitlen m - 1) ≤ eoLen (bitlen n - 1) := ih _ hshorter (by omega) (by omega)
      rw [if_neg h, if_neg (by omega)]
      omega

/-! ## What a decoded integer says of the bits read (R149) -/

theorem one_le_val_cons (b : Bits) : 1 ≤ val (true :: b) := by
  have hpos : 0 < 2 ^ b.length := by positivity
  rw [val_cons, Bool.toNat_true]
  omega

theorem bitlen_val_cons (b : Bits) : bitlen (val (true :: b)) = b.length + 1 := by
  have hlow : 2 ^ b.length ≤ val (true :: b) := by simp [val_cons]
  have hne : val (true :: b) ≠ 0 := Nat.ne_of_gt (one_le_val_cons b)
  rw [bitlen, (Nat.log2_eq_iff hne).2 ⟨hlow, val_lt (true :: b)⟩]

/-- A bit sequence that begins with 1 is the binary of its value (R11). -/
theorem bin_val_cons (b : Bits) : bin (val (true :: b)) = true :: b := by
  rw [bin, bitlen_val_cons, ← List.length_cons (a := true), binN_val]

/-- The length groups up to the one that holds the length `val (true :: b)` end in that group (R140). -/
theorem eoGroups_val_cons (b : Bits) : eoGroups (val (true :: b)) = eoGroups b.length ++ (false :: b) := by
  rw [eoGroups_of_ne_zero (Nat.ne_of_gt (one_le_val_cons b)), bitlen_val_cons, bin_val_cons, List.tail_cons,
    Nat.add_sub_cancel]

theorem eoCode_val_cons (b : Bits) : eoCode (val (true :: b)) = eoGroups b.length ++ (true :: b) := by
  rw [eoCode_eq_eoGroups, bitlen_val_cons, bin_val_cons, Nat.add_sub_cancel]

theorem inSeq_succ (bit : Nat → Bool) (c n : Nat) : inSeq bit c (n + 1) = bit c :: inSeq bit (c + 1) n := by
  rw [Nat.add_comm n, inSeq_add]
  simp [inSeq]

section
variable {maxGroup len p l : Nat} {bit : Nat → Bool}

/-- The loop's invariant: the bits before the cursor are the length groups before a group of the length it is about to
read. So an answered integer is the one whose code was read. -/
theorem eoCode_of_eoDecodeLoop {fuel n k : Nat} (hread : inSeq bit p (eoGroups l).length = eoGroups l)
    (h : eoDecodeLoop maxGroup bit len p fuel (l + 1) (p + (eoGroups l).length) = .value n k) :
    1 ≤ n ∧ inSeq bit p k = eoCode n := by
  induction fuel generalizing l with
  | zero => simp [eoDecodeLoop] at h
  | succ fuel ih =>
    obtain ⟨b, rfl, hgroup⟩ : ∃ b : Bits, b.length = l ∧ inSeq bit (p + (eoGroups l).length) (l + 1) =
        bit (p + (eoGroups l).length) :: b := ⟨_, length_inSeq .., inSeq_succ ..⟩
    simp only [eoDecodeLoop] at h
    split_ifs at h with havail hflag hbound
    · obtain ⟨rfl, rfl⟩ := EORes.value.inj h
      rw [hflag] at hgroup
      rw [inBits, hgroup, eoCode_val_cons, Nat.add_assoc, Nat.add_sub_cancel_left, inSeq_add, hread, hgroup]
      exact ⟨one_le_val_cons b, rfl⟩
    · rw [Bool.not_eq_true] at hflag
      rw [hflag] at hgroup
      have hvalue : inBits bit (p + (eoGroups b.length).length) (b.length + 1) + 2 ^ (b.length + 1 - 1) =
          val (true :: b) := by
        simp [inBits, hgroup, val_cons, Nat.add_comm]
      have hnext : (eoGroups (val (true :: b))).length = (eoGroups b.length).length + (b.length + 1) := by
        rw [eoGroups_val_cons, List.length_append, List.length_cons]
      have hreadNext : inSeq bit p (eoGroups (val (true :: b))).length = eoGroups (val (true :: b)) := by
        rw [hnext, inSeq_add, hread, hgroup, eoGroups_val_cons]
      rw [hvalue, Nat.add_assoc, ← hnext] at h
      exact ih hreadNext h

/-- Encode of decode (R149). -/
theorem eoCode_of_eoDecode {n k : Nat} (h : eoDecode maxGroup bit len p = .value n k) :
    1 ≤ n ∧ inSeq bit p k = eoCode n :=
  eoCode_of_eoDecodeLoop (l := 0) rfl h

theorem eoLen_of_eoDecode {n k : Nat} (h : eoDecode maxGroup bit len p = .value n k) : k = eoLen n := by
  rw [eoLen, ← (eoCode_of_eoDecode h).2, length_inSeq]

/-- The longest accepted code is that of the largest integer within the bound (R150). -/
theorem eoDecode_length_le {n k : Nat} (hm : 1 ≤ maxGroup) (h : eoDecode maxGroup bit len p = .value n k) :
    k ≤ eoLen (2 ^ maxGroup - 1) := by
  have hn : n < 2 ^ maxGroup := eoDecode_lt hm h
  rw [eoLen_of_eoDecode h]
  exact eoLen_mono (eoCode_of_eoDecode h).1 (by omega)

/-! ## Over-long groups (R147) -/

/-- Where the length groups before a group the bound allows stand, the decoder comes to that group. -/
theorem eoDecode_eoGroups (hbound : l + 1 ≤ maxGroup) (hread : inSeq bit p (eoGroups l).length = eoGroups l)
    (hend : p + (eoGroups l).length ≤ len) :
    ∃ fuel, eoDecode maxGroup bit len p =
      eoDecodeLoop maxGroup bit len p (fuel + 1) (l + 1) (p + (eoGroups l).length) := by
  obtain ⟨fuel', hleft, hloop⟩ := eoDecodeLoop_eoPrefix (maxGroup := maxGroup) (len := len) (p := p)
    (fuel := maxGroup + 1) le_rfl (by omega) hbound hread hend
  obtain ⟨fuel, rfl⟩ : ∃ fuel, fuel' = fuel + 1 := ⟨fuel' - 1, by omega⟩
  exact ⟨fuel, hloop⟩

/-- A group that begins with 0 and announces a group of more than `maxGroup` bits ends the decoding before that group is
looked for. -/
theorem eoDecodeLoop_lengthGroup_overlong {fuel c : Nat} (hl : 1 ≤ l)
    (hread : inSeq bit c (bitlen l) = false :: (bin l).tail) (hend : c + bitlen l ≤ len) (hbound : maxGroup ≤ l) :
    eoDecodeLoop maxGroup bit len p (fuel + 1) (bitlen l) c = .boundsExceeded := by
  have havail : avail len c (bitlen l) = true := avail_iff.2 hend
  have hflag : bit c = false := bit_of_inSeq_eq_cons hread
  have hlength : inBits bit c (bitlen l) + 2 ^ (bitlen l - 1) = l := by
    simpa [inBits, hread, val_cons] using val_tail_bin hl
  simp [eoDecodeLoop, havail, hflag, hlength, hbound]

/-- Where the length groups before a group of more than `maxGroup` bits stand, the decoder meets a group that is
over-long: the one they announce, or already one of them. -/
theorem eoDecode_eoGroups_overlong (hm : 1 ≤ maxGroup) (hl : maxGroup ≤ l)
    (hread : inSeq bit p (eoGroups l).length = eoGroups l) (hend : p + (eoGroups l).length ≤ len) :
    eoDecode maxGroup bit len p = .boundsExceeded := by
  induction l using Nat.strong_induction_on with
  | _ l ih =>
    have hpos : 1 ≤ bitlen l := bitlen_pos l
    have hshorter : bitlen l - 1 < l := bitlen_sub_one_lt (by omega)
    rw [eoGroups_of_ne_zero (by omega)] at hread hend
    obtain ⟨hreadPrefix, hreadGroup⟩ := (inSeq_append_iff ..).1 hread
    rw [length_lengthGroup] at hreadGroup
    rw [List.length_append, length_lengthGroup] at hend
    by_cases hshort : bitlen l - 1 + 1 ≤ maxGroup
    · obtain ⟨fuel, hdecode⟩ := eoDecode_eoGroups (len := len) hshort hreadPrefix (by omega)
      rw [hdecode, Nat.sub_add_cancel hpos, eoDecodeLoop_lengthGroup_overlong (by omega) hreadGroup (by omega) hl]
    · exact ih (bitlen l - 1) hshorter (by omega) hreadPrefix (by omega)

/-- The length groups of an integer beyond the bound are rejected, whatever follows them (R147, R149). -/
theorem eoDecode_lengthGroups_overlong {n : Nat} (hm : 1 ≤ maxGroup) (hn : 2 ^ maxGroup ≤ n)
    (hread : inSeq bit p (lengthGroups n).length = lengthGroups n) (hend : p + (lengthGroups n).length ≤ len) :
    eoDecode maxGroup bit len p = .boundsExceeded := by
  rw [lengthGroups_eq_eoGroups] at hread hend
  have hne : n ≠ 0 := by
    rintro rfl
    simp at hn
  have hlong : maxGroup ≤ bitlen n - 1 := (Nat.le_log2 hne).2 hn
  exact eoDecode_eoGroups_overlong hm hlong hread hend

/-! ## Codes cut off (R274) -/

/-- Where fewer bits are left than the group has, the code is truncated. -/
theorem eoDecodeLoop_truncated {fuel r c : Nat} (h : len < c + r) :
    eoDecodeLoop maxGroup bit len p (fuel + 1) r c = .truncated := by
  simp [eoDecodeLoop, avail, h]

/-- Data that ends inside length groups and the group after them, none over-long, ends in a group that the decoder comes
to. -/
theorem eoDecode_cutOff_group {g b : Bits} (hbound : l + 1 ≤ maxGroup) (hg : g.length = l + 1)
    (hcut : CutOff b (eoGroups l ++ g)) (hread : inSeq bit p b.length = b) (hend : len = p + b.length) :
    eoDecode maxGroup bit len p = .truncated := by
  obtain ⟨hprefix, hshort⟩ := hcut
  induction l using Nat.strong_induction_on generalizing g with
  | _ l ih =>
    obtain hwhole | hinside := le_or_gt (eoGroups l).length b.length
    · obtain ⟨x, rfl⟩ : eoGroups l <+: b := List.prefix_of_prefix_length_le (List.prefix_append ..) hprefix hwhole
      rw [List.length_append] at hend
      rw [List.length_append, List.length_append] at hshort
      obtain ⟨fuel, hdecode⟩ := eoDecode_eoGroups (maxGroup := maxGroup) (len := len) hbound
        ((inSeq_append_iff ..).1 hread).1 (by omega)
      rw [hdecode, eoDecodeLoop_truncated (by omega)]
    · have hne : l ≠ 0 := by
        rintro rfl
        exact absurd hinside (Nat.not_lt_zero _)
      have hshorter : bitlen l - 1 < l := bitlen_sub_one_lt hne
      have hgroup : (false :: (bin l).tail).length = bitlen l - 1 + 1 := by
        rw [length_lengthGroup, Nat.sub_add_cancel (bitlen_pos l)]
      have hprefix : b <+: eoGroups l :=
        List.prefix_of_prefix_length_le hprefix (List.prefix_append ..) hinside.le
      rw [eoGroups_of_ne_zero hne] at hprefix hinside
      exact ih _ hshorter (by omega) hgroup hprefix hinside

/-- Data that ends in a code cut off is truncated (R146, R274). -/
theorem eoDecode_cutOffCode {b : Bits} (hcut : CutOffCode maxGroup b) (hread : inSeq bit p b.length = b)
    (hend : len = p + b.length) : eoDecode maxGroup bit len p = .truncated := by
  obtain ⟨n, hn, ⟨hbound, hcode⟩ | ⟨hbound, hgroups⟩⟩ := hcut
  · have hpos : 1 ≤ bitlen n := bitlen_pos n
    have hle : bitlen n ≤ maxGroup := bitlen_le_of_lt_two_pow hn hbound
    rw [eoCode_eq_eoGroups] at hcode
    exact eoDecode_cutOff_group (by omega) (by rw [length_bin]; omega) hcode hread hend
  · have hpos : 1 ≤ bitlen (bitlen n - 1) := bitlen_pos _
    have hne : bitlen n - 1 ≠ 0 := by
      intro h
      rw [lengthGroups_eq_eoGroups, h] at hgroups
      exact absurd hgroups.2 (Nat.not_lt_zero _)
    rw [lengthGroups_eq_eoGroups, eoGroups_of_ne_zero hne] at hgroups
    exact eoDecode_cutOff_group (by omega) (by rw [length_lengthGroup]; omega) hgroups hread hend

/-- Where nothing is left, nothing of a code is there. -/
theorem eoDecode_of_len_le (h : len ≤ p) : eoDecode maxGroup bit len p = .truncated :=
  eoDecodeLoop_truncated (by omega)

end

/-! ## The contract and its bounds (R149, R150) -/

/-- Settles O24: decode of encode is `eoDecode_eoCode`, encode of decode `eoCode_of_eoDecode`; a code beyond the bound
begins with its length groups. -/
theorem eliasOmegaRoundTrip : Obligations.EliasOmegaRoundTrip := by
  intro maxGroup bit len p hm
  refine ⟨fun _ => eoDecode_eoCode, fun _ _ h => (eoCode_of_eoDecode h).2, fun n hn hread hend => ?_⟩
  rw [eoLen, eoCode_eq_lengthGroups] at hread hend
  rw [List.length_append] at hend
  exact eoDecode_lengthGroups_overlong (by omega) hn ((inSeq_append_iff ..).1 hread).1 (by omega)

/-- The longest code of an integer of at most 100 bits has groups of 1, 2, 3, 7 and 100 bits (R150). -/
theorem eoLen_longest : eoLen (2 ^ 100 - 1) = 113 := by decide

/-- Settles O26: the bits read are the code of the integer answered, and no code within the bound is longer than that of
2^100 - 1. -/
theorem acceptedCodesAreAtMost113Bits : Obligations.AcceptedCodesAreAtMost113Bits := by
  intro bit len p n k h
  have hlength : k = eoLen n := eoLen_of_eoDecode h
  exact ⟨(eoCode_of_eoDecode h).1, eoDecode_lt (by omega) h, hlength ▸ eoLen_pos n,
    (eoDecode_length_le (by omega) h).trans_eq eoLen_longest, eoDecode_end_le h⟩

end Sys2Proof
end

section
/-! SUPPORT. EO_ENC and EO_DEC (R143, R148): what they do in READY with legal operands. -/

namespace Sys2Proof.Machine

/-! ## How an issued operation ends -/

theorem State.complete_done (s : State) : s.complete.Done := ⟨rfl, rfl, rfl, rfl⟩

theorem State.faultEntry_faulted (s : State) (k : ErrKind) : (s.faultEntry k).Faulted k := ⟨rfl, rfl⟩

/-- In READY with legal operands, an operation whose body ends with `u` completes with it (R250). -/
theorem issue_of_body_ok {legal : Bool} {body : State → Except ErrKind State} {s u : State} (hs : s.status = .ready)
    (hlegal : legal = true) (hbody : body s = .ok u) : issue legal body s = .next u.complete := by
  rw [hlegal, issue_ready hs, hbody, settle]

/-- In READY with legal operands, an operation whose body raises a kind enters FAULT with it (R281). -/
theorem issue_of_body_error {legal : Bool} {body : State → Except ErrKind State} {s : State} {k : ErrKind}
    (hs : s.status = .ready) (hlegal : legal = true) (hbody : body s = .error k) :
    ∃ t, issue legal body s = .next t ∧ t.Faulted k := by
  refine ⟨s.faultEntry k, ?_, s.faultEntry_faulted k⟩
  rw [hlegal, issue_ready hs, hbody, settle]

theorem exec_eoEnc (s : State) : exec .eoEnc s = issue s.olenLegal eoEncBody s := rfl

theorem exec_eoDec (s : State) : exec .eoDec s = issue s.inlenLegal eoDecBody s := rfl

/-! ## EO_ENC (R143) -/

/-- Settles O27: EO_ENC is one append of the code; what it leaves unchanged is its row of the access table. -/
theorem eoEncAppendsTheCodeOfVal : Obligations.EoEncAppendsTheCodeOfVal := by
  intro s hs holen
  have hlegal : s.olenLegal = true := decide_eq_true holen
  rw [exec_eoEnc]
  refine ⟨fun hval hfits => ?_, fun hval => ?_, fun hval hfull => ?_⟩
  · have hbody : eoEncBody s = .ok _ := eoEmit_ok_iff.2 ⟨hval, emit_ok_iff.2 ⟨hfits, rfl⟩⟩
    have hrun := issue_of_body_ok hs hlegal hbody
    obtain ⟨hinputs, houtside, hnbits, hvalue, -, hout, hct, -⟩ :=
      exec_leavesUnmarked (i := .eoEnc) (by decide) hs hrun rfl
    obtain ⟨houtlen, hout⟩ := hout (by decide)
    exact ⟨_, hrun, State.complete_done _, appendedBits_writeSeq s (eoCode s.val), hinputs, houtside,
      hnbits (by decide), hvalue (by decide), houtlen, hout, hct (by decide)⟩
  · exact issue_of_body_error hs hlegal (eoEmit_error_iff.2 (.inl ⟨hval, rfl⟩))
  · exact issue_of_body_error hs hlegal (eoEmit_error_iff.2 (.inr ⟨hval, emit_error_iff.2 ⟨hfull, rfl⟩⟩))

/-! ## EO_DEC (R148) -/

/-- Settles O28: EO_DEC reads the code back (R149); what it leaves unchanged is its row of the access table. -/
theorem eoDecReadsTheCodeAtPos : Obligations.EoDecReadsTheCodeAtPos := by
  intro s n hs _ hinlen hn hbound ⟨hread, hend⟩
  have hlegal : s.inlenLegal = true := decide_eq_true hinlen
  have hdecode : s.eoDecode s.pos = .value n (eoLen n) := eoDecode_eoCode hn hbound hread hend
  have hbody : eoDecBody s = .ok ((s.setVal n).setNbits (eoLen n)) := by rw [eoDecBody, hdecode]
  have hrun := issue_of_body_ok hs hlegal hbody
  obtain ⟨hinputs, houtside, -, -, hobuf, hout, hct, -⟩ := exec_leavesUnmarked (i := .eoDec) (by decide) hs hrun rfl
  obtain ⟨holen, hobuf⟩ := hobuf (by decide)
  obtain ⟨houtlen, hout⟩ := hout (by decide)
  exact ⟨_, hrun, State.complete_done _, rfl, rfl, hinputs, houtside, holen, hobuf, houtlen, hout, hct (by decide)⟩

/-- Data that ends in a code cut off, or before POS, is truncated (R148). -/
theorem State.eoDecode_of_ibufEnds {s : State} {p : Nat} {b : Bits} (hcut : CutOffCode s.par.eoMaxGroup b)
    (h : s.IbufEnds p b) : s.eoDecode p = .truncated := by
  obtain ⟨hread, hend | ⟨-, hend⟩⟩ := h
  · exact eoDecode_cutOffCode hcut hread hend
  · exact eoDecode_of_len_le hend

/-- The length groups of an integer beyond the bound exceed it (R147). -/
theorem State.eoDecode_of_lengthGroups {s : State} {p n : Nat} (hpar : s.par.wf = true)
    (hn : 2 ^ s.par.eoMaxGroup ≤ n) (h : s.IbufHolds p (lengthGroups n)) : s.eoDecode p = .boundsExceeded := by
  obtain ⟨hread, hend⟩ := h
  have hm : 7 ≤ s.par.eoMaxGroup := Params.seven_le_valw hpar
  exact eoDecode_lengthGroups_overlong (by omega) hn hread hend

/-- Settles O29: EO_DEC raises what the decoder answers. -/
theorem eoDecFaultsOnCutOffAndOverlongCodes : Obligations.EoDecFaultsOnCutOffAndOverlongCodes := by
  intro s hs hpar hinlen
  have hlegal : s.inlenLegal = true := decide_eq_true hinlen
  rw [exec_eoDec]
  refine ⟨fun b hcut hends => ?_, fun n hn hholds => ?_⟩
  · exact issue_of_body_error hs hlegal (by rw [eoDecBody, State.eoDecode_of_ibufEnds hcut hends])
  · exact issue_of_body_error hs hlegal (by rw [eoDecBody, State.eoDecode_of_lengthGroups hpar hn hholds])

end Sys2Proof.Machine
end

section
/-! SUPPORT. The rounds of `BuildTree` (R172): the stable descending sort, and the two nodes each merge takes. -/

namespace Sys2Proof.Machine

/-! ## The sort -/

/-- The sort is Mathlib's insertion sort by descending frequency. -/
theorem insertDescending_eq_orderedInsert (x : Node) (w : List Node) :
    insertDescending x w = w.orderedInsert (Node.freq ⁻¹'o (· ≥ ·)) x := by
  induction w with
  | nil => rfl
  | cons y w ih => simp [insertDescending, List.orderedInsert_cons, ih, Order.Preimage]

theorem stableSortDescending_eq_insertionSort (w : List Node) :
    stableSortDescending w = w.insertionSort (Node.freq ⁻¹'o (· ≥ ·)) := by
  induction w with
  | nil => rfl
  | cons x w ih => rw [stableSortDescending, ih, insertDescending_eq_orderedInsert, List.insertionSort_cons]

theorem stableSortDescending_perm (w : List Node) : (stableSortDescending w).Perm w := by
  rw [stableSortDescending_eq_insertionSort]
  exact List.perm_insertionSort _ w

theorem stableSortDescending_pairwise (w : List Node) :
    (stableSortDescending w).Pairwise fun a b => b.freq ≤ a.freq := by
  rw [stableSortDescending_eq_insertionSort]
  exact List.pairwise_insertionSort (Node.freq ⁻¹'o (· ≥ ·)) w

theorem stableSortDescending_of_pairwise {w : List Node} (h : w.Pairwise fun a b => b.freq ≤ a.freq) :
    stableSortDescending w = w := by
  rw [stableSortDescending_eq_insertionSort]
  exact List.Pairwise.insertionSort_eq h

/-- A node passes only nodes of another frequency on its way in, so it enters its own frequency at the front. -/
theorem filter_insertDescending (f : Nat) (x : Node) (w : List Node) :
    (insertDescending x w).filter (fun y => y.freq = f) = (x :: w).filter fun y => y.freq = f := by
  induction w with
  | nil => rfl
  | cons y w ih =>
    unfold insertDescending
    split_ifs with hle
    · rfl
    · by_cases hy : y.freq = f
      · have hx : x.freq ≠ f := by omega
        simpa [hx, hy] using ih
      · simpa [hy, List.filter_cons] using ih

theorem filter_stableSortDescending (f : Nat) (w : List Node) :
    (stableSortDescending w).filter (fun y => y.freq = f) = w.filter fun y => y.freq = f := by
  induction w with
  | nil => rfl
  | cons x w ih => rw [stableSortDescending, filter_insertDescending, List.filter_cons, List.filter_cons, ih]

/-- Settles O30: the sort is an insertion sort, and an insertion keeps the order within each frequency. -/
theorem treeSortIsStableDescending : Obligations.TreeSortIsStableDescending :=
  fun w => ⟨stableSortDescending_perm w, stableSortDescending_pairwise w, fun f => filter_stableSortDescending f w⟩

/-! ## One round -/

/-- The sorted list ends in the two nodes a round takes. -/
theorem stableSortDescending_eq_append {w : List Node} (h : 2 ≤ w.length) :
    ∃ l b a, stableSortDescending w = l ++ [b, a] := by
  have hlength : (stableSortDescending w).length = w.length := (stableSortDescending_perm w).length_eq
  obtain hnil | ⟨l', a, hl'⟩ := List.eq_nil_or_concat (stableSortDescending w)
  · simp [hnil] at hlength
    omega
  obtain rfl | ⟨l, b, rfl⟩ := List.eq_nil_or_concat l'
  · simp [hl'] at hlength
    omega
  exact ⟨l, b, a, by simp [hl']⟩

/-- A round pops the last two nodes of the sorted list and puts their parent at the end (R172). -/
theorem mergeStep_of_sorted {w l : List Node} {a b : Node} (h : stableSortDescending w = l ++ [b, a]) :
    mergeStep w = l ++ [.internal a b (a.freq + b.freq)] := by
  simp [mergeStep, h]

/-- Settles O31: the two nodes a round pops are the last two of the sorted list. -/
theorem eachMergeTakesTheTwoLeastLatestNodes : Obligations.EachMergeTakesTheTwoLeastLatestNodes := by
  intro w hw
  obtain ⟨l, b, a, hsort⟩ := stableSortDescending_eq_append hw
  have hsorted := stableSortDescending_pairwise w
  rw [hsort, List.pairwise_append] at hsorted
  obtain ⟨-, hlast, hbelow⟩ := hsorted
  have hperm := stableSortDescending_perm w
  rw [hsort] at hperm
  refine ⟨a, b, l, mergeStep_of_sorted hsort, hperm, ?_, fun x hx => ?_, fun f => ?_⟩
  · exact List.rel_of_pairwise_cons hlast (List.mem_singleton_self a)
  · exact hbelow x hx b (by simp)
  · rw [← hsort, filter_stableSortDescending]

/-! ## The rounds -/

theorem length_mergeStep {w : List Node} (h : 2 ≤ w.length) : (mergeStep w).length + 1 = w.length := by
  obtain ⟨l, b, a, hsort⟩ := stableSortDescending_eq_append h
  rw [mergeStep_of_sorted hsort, ← (stableSortDescending_perm w).length_eq, hsort]
  simp

theorem buildTree_singleton (fuel : Nat) (x : Node) : buildTree fuel [x] = some x := by
  cases fuel <;> rfl

theorem buildTree_succ {w : List Node} (fuel : Nat) (h : 2 ≤ w.length) :
    buildTree (fuel + 1) w = buildTree fuel (mergeStep w) := by
  rw [buildTree, if_neg (by omega)]

/-- The rounds end with the root alone, and what every round keeps holds of it. -/
theorem buildTree_induction {P : List Node → Prop} (hround : ∀ w, 2 ≤ w.length → P w → P (mergeStep w)) {fuel : Nat}
    {w : List Node} (hne : w ≠ []) (hfuel : w.length ≤ fuel + 1) (hw : P w) :
    ∃ root, buildTree fuel w = some root ∧ P [root] := by
  induction fuel generalizing w with
  | zero =>
    have hpos := List.length_pos_iff.2 hne
    obtain ⟨x, rfl⟩ : ∃ x, w = [x] := List.length_eq_one_iff.1 (by omega)
    exact ⟨x, rfl, hw⟩
  | succ fuel ih =>
    have hpos := List.length_pos_iff.2 hne
    obtain hone | htwo : w.length = 1 ∨ 2 ≤ w.length := by omega
    · obtain ⟨x, rfl⟩ := List.length_eq_one_iff.1 hone
      exact ⟨x, buildTree_singleton _ x, hw⟩
    · have hlength := length_mergeStep htwo
      rw [buildTree_succ fuel htwo]
      exact ih (List.length_pos_iff.1 (by omega)) (by omega) (hround w htwo hw)

end Sys2Proof.Machine
end

section
/-! SUPPORT. The priority queue of R174 builds the tree of R172: the queue's nodes, listed with the next one to be taken
at the end, are the sorted working set. -/

namespace Sys2Proof.Machine

/-! ## The order of taking -/

theorem QNode.before_iff {a b : QNode} :
    QNode.before a b = true ↔ a.2.freq < b.2.freq ∨ (a.2.freq = b.2.freq ∧ b.1 < a.1) := by
  simp [QNode.before]

/-- The list begins with the node to be taken last and ends with the one to be taken next. -/
abbrev TakenFromTheEnd (l : List QNode) : Prop := l.Pairwise fun a b => QNode.before b a = true

theorem freq_pairwise_of_takenFromTheEnd {l : List QNode} (h : TakenFromTheEnd l) :
    (l.map Prod.snd).Pairwise fun a b => b.freq ≤ a.freq := by
  refine List.pairwise_map.2 (h.imp fun hab => ?_)
  rw [QNode.before_iff] at hab
  omega

/-- The queue `q`, all of whose sequence numbers are below `seq`, holds the working set `w`. -/
def Queued (q : List QNode) (seq : Nat) (w : List Node) : Prop :=
  ∃ l : List QNode, l.Perm q ∧ TakenFromTheEnd l ∧ (∀ x ∈ l, x.1 < seq) ∧ l.map Prod.snd = stableSortDescending w

/-! ## Taking a node -/

/-- The node taken is before every other one, and no other is lost. -/
theorem exists_qPop {q : List QNode} (hq : q ≠ []) :
    ∃ m rest, qPop q = some (m, rest) ∧ (m :: rest).Perm q ∧ ∀ x ∈ rest, ¬ QNode.before x m = true := by
  induction q with
  | nil => exact absurd rfl hq
  | cons x q ih =>
    cases q with
    | nil => exact ⟨x, [], rfl, .refl _, by simp⟩
    | cons y q =>
      obtain ⟨m, rest, hpop, hperm, hleast⟩ := ih (List.cons_ne_nil y q)
      rw [qPop, hpop]
      by_cases hx : QNode.before x m = true
      · refine ⟨x, m :: rest, if_pos hx, hperm.cons x, List.forall_mem_cons.2 ⟨?_, fun z hz => ?_⟩⟩
        · rw [QNode.before_iff] at hx ⊢
          omega
        · have hzm := hleast z hz
          rw [QNode.before_iff] at hx hzm ⊢
          omega
      · exact ⟨m, x :: rest, if_neg hx, (List.Perm.swap x m rest).trans (hperm.cons x),
          List.forall_mem_cons.2 ⟨hx, hleast⟩⟩

/-- Of a queue whose nodes are listed in the order of taking, the last listed is taken. -/
theorem qPop_of_takenFromTheEnd {q l : List QNode} {a : QNode} (hperm : (l ++ [a]).Perm q)
    (hl : TakenFromTheEnd (l ++ [a])) : ∃ rest, qPop q = some (a, rest) ∧ l.Perm rest := by
  have hq : q ≠ [] := by
    rintro rfl
    simpa using hperm.eq_nil
  obtain ⟨m, rest, hpop, hrest, hleast⟩ := exists_qPop hq
  have hboth : (a :: l).Perm (m :: rest) := (List.perm_append_singleton a l).symm.trans (hperm.trans hrest.symm)
  obtain rfl : a = m := by
    by_contra hne
    have ha : a ∈ rest := List.mem_of_ne_of_mem hne (hboth.subset List.mem_cons_self)
    have hm : m ∈ l := List.mem_of_ne_of_mem (Ne.symm hne) (hboth.symm.subset List.mem_cons_self)
    exact hleast a ha ((List.pairwise_append.1 hl).2.2 m hm a (List.mem_singleton_self a))
  exact ⟨rest, hpop, hboth.cons_inv⟩

/-! ## Entering a node -/

/-- A node that is not above the first of a sorted list stays before it. -/
theorem insertDescending_of_forall_le {x : Node} {w : List Node} (h : ∀ y ∈ w, y.freq ≤ x.freq) :
    insertDescending x w = x :: w := by
  cases w with
  | nil => rfl
  | cons y w => exact if_pos (h y List.mem_cons_self)

/-- A node above all others that enters at the end is sorted to the front. -/
theorem stableSortDescending_append_of_lt {p : Node} {w : List Node} (h : ∀ x ∈ w, x.freq < p.freq) :
    stableSortDescending (w ++ [p]) = p :: stableSortDescending w := by
  induction w with
  | nil => rfl
  | cons x w ih =>
    obtain ⟨hx, hw⟩ := List.forall_mem_cons.1 h
    rw [List.cons_append, stableSortDescending, ih hw, insertDescending, if_neg (by omega), stableSortDescending]

/-- A node with the lowest sequence number of all takes the place that the sort gives a node entered at the front. -/
theorem exists_enter_first {x : QNode} {l : List QNode} (hl : TakenFromTheEnd l) (hx : ∀ y ∈ l, x.1 < y.1) :
    ∃ l', l'.Perm (x :: l) ∧ TakenFromTheEnd l' ∧ l'.map Prod.snd = insertDescending x.2 (l.map Prod.snd) := by
  induction l with
  | nil => exact ⟨[x], .refl _, List.pairwise_singleton .., rfl⟩
  | cons y l ih =>
    obtain ⟨hy, htail⟩ := List.pairwise_cons.1 hl
    obtain ⟨hxy, hx⟩ := List.forall_mem_cons.1 hx
    by_cases hle : y.2.freq ≤ x.2.freq
    · refine ⟨x :: y :: l, .refl _, List.pairwise_cons.2 ⟨List.forall_mem_cons.2 ⟨?_, fun z hz => ?_⟩, hl⟩, ?_⟩
      · rw [QNode.before_iff]
        omega
      · have hzy := hy z hz
        have hxz := hx z hz
        rw [QNode.before_iff] at hzy ⊢
        omega
      · simp [insertDescending, hle]
    · obtain ⟨l', hperm, hl', hmap⟩ := ih htail hx
      refine ⟨y :: l', (hperm.cons y).trans (.swap x y l), List.pairwise_cons.2 ⟨fun z hz => ?_, hl'⟩, ?_⟩
      · rcases List.mem_cons.1 (hperm.subset hz) with rfl | hz
        · rw [QNode.before_iff]
          omega
        · exact hy z hz
      · simp [insertDescending, hle, hmap]

/-- A node with the highest sequence number of all takes the place that the sort gives a node entered at the end. -/
theorem exists_enter_last {x : QNode} {l : List QNode} (hl : TakenFromTheEnd l) (hx : ∀ y ∈ l, y.1 < x.1) :
    ∃ l', l'.Perm (x :: l) ∧ TakenFromTheEnd l' ∧
      l'.map Prod.snd = stableSortDescending (l.map Prod.snd ++ [x.2]) := by
  induction l with
  | nil => exact ⟨[x], .refl _, List.pairwise_singleton .., rfl⟩
  | cons y l ih =>
    have hsorted := freq_pairwise_of_takenFromTheEnd hl
    obtain ⟨hy, htail⟩ := List.pairwise_cons.1 hl
    obtain ⟨hyx, hx⟩ := List.forall_mem_cons.1 hx
    by_cases hle : x.2.freq ≤ y.2.freq
    · obtain ⟨l', hperm, hl', hmap⟩ := ih htail hx
      have hybefore : ∀ z ∈ l', QNode.before z y = true := by
        intro z hz
        rcases List.mem_cons.1 (hperm.subset hz) with rfl | hz
        · rw [QNode.before_iff]
          omega
        · exact hy z hz
      have hall : TakenFromTheEnd (y :: l') := List.pairwise_cons.2 ⟨hybefore, hl'⟩
      refine ⟨y :: l', (hperm.cons y).trans (.swap x y l), hall, ?_⟩
      have hafter : ∀ z ∈ l'.map Prod.snd, z.freq ≤ y.2.freq :=
        (List.pairwise_cons.1 (freq_pairwise_of_takenFromTheEnd hall)).1
      rw [List.map_cons, ← insertDescending_of_forall_le hafter, hmap]
      rfl
    · have hbelow : ∀ z ∈ y :: l, z.2.freq < x.2.freq := by
        refine List.forall_mem_cons.2 ⟨by omega, fun z hz => ?_⟩
        have hzy := hy z hz
        rw [QNode.before_iff] at hzy
        omega
      refine ⟨x :: y :: l, .refl _, List.pairwise_cons.2 ⟨fun z hz => ?_, hl⟩, ?_⟩
      · rw [QNode.before_iff]
        exact .inl (hbelow z hz)
      · rw [stableSortDescending_append_of_lt (List.forall_mem_map.2 hbelow), stableSortDescending_of_pairwise hsorted]
        rfl

/-! ## The two loops -/

/-- The initial queue: the working set, numbered in its order (R174). -/
theorem exists_takenFromTheEnd_zipIdx (w : List Node) (k : Nat) :
    ∃ l : List QNode, l.Perm ((w.zipIdx k).map fun x => (x.2, x.1)) ∧ TakenFromTheEnd l ∧
      l.map Prod.snd = stableSortDescending w := by
  induction w generalizing k with
  | nil => exact ⟨[], .refl _, .nil, rfl⟩
  | cons x w ih =>
    obtain ⟨l, hperm, hl, hmap⟩ := ih (k + 1)
    have hlater : ∀ y ∈ l, k < y.1 := by
      intro y hy
      obtain ⟨z, hz, rfl⟩ := List.mem_map.1 (hperm.subset hy)
      exact List.le_snd_of_mem_zipIdx hz
    obtain ⟨l', hperm', hl', hmap'⟩ := exists_enter_first (x := (k, x)) hl hlater
    exact ⟨l', hperm'.trans (hperm.cons (k, x)), hl', by rw [hmap', hmap, stableSortDescending]⟩

theorem queued_zipIdx (w : List Node) : Queued (w.zipIdx.map fun x => (x.2, x.1)) w.length w := by
  obtain ⟨l, hperm, hl, hmap⟩ := exists_takenFromTheEnd_zipIdx w 0
  refine ⟨l, hperm, hl, fun y hy => ?_, hmap⟩
  obtain ⟨z, hz, rfl⟩ := List.mem_map.1 (hperm.subset hy)
  simpa using List.snd_lt_add_of_mem_zipIdx hz

theorem Queued.eq_nil {q : List QNode} {seq : Nat} (h : Queued q seq []) : q = [] := by
  obtain ⟨l, hperm, -, -, hmap⟩ := h
  obtain rfl : l = [] := List.map_eq_nil_iff.1 hmap
  exact hperm.symm.eq_nil

theorem Queued.eq_singleton {q : List QNode} {seq : Nat} {x : Node} (h : Queued q seq [x]) : ∃ i, q = [(i, x)] := by
  obtain ⟨l, hperm, -, -, hmap⟩ := h
  obtain ⟨⟨i, y⟩, rfl, rfl⟩ := List.map_eq_singleton_iff.1 hmap
  exact ⟨i, hperm.symm.eq_singleton⟩

theorem queueTree_of_qPop {fuel seq : Nat} {q q1 q2 : List QNode} {a b : QNode} (ha : qPop q = some (a, q1))
    (hb : qPop q1 = some (b, q2)) : queueTree (fuel + 1) seq q =
      queueTree fuel (seq + 1) (q2 ++ [(seq, .internal a.2 b.2 (a.2.freq + b.2.freq))]) := by
  simp [queueTree, ha, hb]

/-- One round takes the same two nodes from the queue as from the working set, and enters the same parent last. -/
theorem Queued.round {q : List QNode} {seq : Nat} {w : List Node} (h : Queued q seq w) (hw : 2 ≤ w.length)
    (fuel : Nat) :
    ∃ q', queueTree (fuel + 1) seq q = queueTree fuel (seq + 1) q' ∧ Queued q' (seq + 1) (mergeStep w) := by
  obtain ⟨l, hperm, hl, hseq, hmap⟩ := h
  obtain ⟨rest, b, a, hsort⟩ := stableSortDescending_eq_append hw
  obtain ⟨l, taken, rfl, rfl, htaken⟩ := List.map_eq_append_iff.1 (hmap.trans hsort)
  obtain ⟨b, last, rfl, rfl, hlast⟩ := List.map_eq_cons_iff.1 htaken
  obtain ⟨a, rfl, rfl⟩ := List.map_eq_singleton_iff.1 hlast
  rw [← List.singleton_append, ← List.append_assoc] at hperm hl
  obtain ⟨q1, hpopa, hperm1⟩ := qPop_of_takenFromTheEnd hperm hl
  have hl1 : TakenFromTheEnd (l ++ [b]) := (List.pairwise_append.1 hl).1
  obtain ⟨q2, hpopb, hperm2⟩ := qPop_of_takenFromTheEnd hperm1 hl1
  have hseq2 : ∀ y ∈ l, y.1 < seq := fun y hy => hseq y (List.mem_append_left _ hy)
  obtain ⟨l', hperm', hl', hmap'⟩ :=
    exists_enter_last (x := (seq, .internal a.2 b.2 (a.2.freq + b.2.freq))) (List.pairwise_append.1 hl1).1 hseq2
  refine ⟨_, queueTree_of_qPop hpopa hpopb, l', ?_, hl', fun y hy => ?_, ?_⟩
  · exact hperm'.trans ((hperm2.cons _).trans (List.perm_append_singleton _ _).symm)
  · rcases List.mem_cons.1 (hperm'.subset hy) with rfl | hy
    · exact Nat.lt_succ_self seq
    · exact (hseq2 y hy).trans (Nat.lt_succ_self seq)
  · rw [hmap', mergeStep_of_sorted hsort]

theorem buildTree_eq_queueTree {fuel seq : Nat} {w : List Node} {q : List QNode} (hfuel : w.length ≤ fuel)
    (h : Queued q seq w) : buildTree fuel w = queueTree fuel seq q := by
  induction fuel generalizing seq w q with
  | zero =>
    obtain rfl : w = [] := List.length_eq_zero_iff.1 (by omega)
    obtain rfl := h.eq_nil
    rfl
  | succ fuel ih =>
    match w, hfuel with
    | [], _ =>
      obtain rfl := h.eq_nil
      rfl
    | [x], _ =>
      obtain ⟨i, rfl⟩ := h.eq_singleton
      rfl
    | x :: y :: w, hfuel =>
      have htwo : 2 ≤ (x :: y :: w).length := by simp
      have hlength := length_mergeStep htwo
      obtain ⟨q', hqueue, hq'⟩ := h.round htwo fuel
      rw [buildTree_succ fuel htwo, hqueue]
      exact ih (by omega) hq'

/-- Settles O32: at every round the queue's nodes, in the order of taking, are the sorted working set. -/
theorem priorityQueueBuildsTheSameTree : Obligations.PriorityQueueBuildsTheSameTree :=
  fun w => buildTree_eq_queueTree le_rfl (queued_zipIdx w)

end Sys2Proof.Machine
end

section
/-! SUPPORT. The codewords of a tree (R176, R177): which symbols have one, how long it is, that none begins another, and
that they fill the code space. -/

namespace Sys2Proof.Machine

/-! ## The symbols of a tree -/

/-- The entry numbers at the leaves, from left to right. -/
def Node.symbols : Node → List Nat
  | .leaf k _ => [k]
  | .internal l r _ => l.symbols ++ r.symbols

theorem Node.map_fst_assign (n : Node) (cw : Bits) : (n.assign cw).map Prod.fst = n.symbols := by
  induction n generalizing cw with
  | leaf k f => rfl
  | internal l r f ihl ihr => rw [Node.assign, List.map_append, ihl, ihr, Node.symbols]

theorem Node.length_assign (n : Node) (cw : Bits) : (n.assign cw).length = n.symbols.length := by
  rw [← n.map_fst_assign cw, List.length_map]

theorem Node.length_symbols_pos (n : Node) : 0 < n.symbols.length := by
  induction n with
  | leaf k f => exact Nat.one_pos
  | internal l r f ihl ihr =>
    rw [Node.symbols, List.length_append]
    omega

/-! ## The codewords -/

/-- Every codeword of a subtree begins with the path to it. -/
theorem Node.isPrefix_of_mem_assign {n : Node} {cw : Bits} {e : Nat × Bits} (h : e ∈ n.assign cw) : cw <+: e.2 := by
  induction n generalizing cw with
  | leaf k f =>
    obtain rfl := List.mem_singleton.1 h
    exact List.prefix_refl cw
  | internal l r f ihl ihr =>
    rcases List.mem_append.1 h with h | h
    · exact (List.prefix_append ..).trans (ihl h)
    · exact (List.prefix_append ..).trans (ihr h)

/-- A path is shorter than the number of leaves (R176). -/
theorem Node.length_lt_of_mem_assign {n : Node} {cw : Bits} {e : Nat × Bits} (h : e ∈ n.assign cw) :
    e.2.length < cw.length + n.symbols.length := by
  induction n generalizing cw with
  | leaf k f =>
    obtain rfl := List.mem_singleton.1 h
    simp [Node.symbols]
  | internal l r f ihl ihr =>
    have hl := l.length_symbols_pos
    have hr := r.length_symbols_pos
    rw [Node.symbols, List.length_append]
    rcases List.mem_append.1 h with h | h
    · have hlt := ihl h
      rw [List.length_append, List.length_singleton] at hlt
      omega
    · have hlt := ihr h
      rw [List.length_append, List.length_singleton] at hlt
      omega

/-- Two paths that part are not one the beginning of the other. -/
theorem not_isPrefix_of_branches {cw a b : Bits} {x y : Bool} (hxy : x ≠ y) (ha : cw ++ [x] <+: a)
    (hb : cw ++ [y] <+: b) : ¬ a <+: b := by
  intro hab
  have hbranch : cw ++ [x] <+: cw ++ [y] := List.prefix_of_prefix_length_le (ha.trans hab) hb (by simp)
  have hsame := hbranch.eq_of_length (by simp)
  simp [hxy] at hsame

/-- No leaf's path begins another leaf's (R177). -/
theorem Node.eq_of_mem_assign_of_isPrefix {n : Node} {cw : Bits} {a b : Nat × Bits} (ha : a ∈ n.assign cw)
    (hb : b ∈ n.assign cw) (hab : a.2 <+: b.2) : a = b := by
  induction n generalizing cw with
  | leaf k f => rw [List.mem_singleton.1 ha, List.mem_singleton.1 hb]
  | internal l r f ihl ihr =>
    rcases List.mem_append.1 ha with hal | har <;> rcases List.mem_append.1 hb with hbl | hbr
    · exact ihl hal hbl
    · refine absurd hab (not_isPrefix_of_branches ?_ (isPrefix_of_mem_assign hal) (isPrefix_of_mem_assign hbr))
      exact Bool.false_ne_true
    · refine absurd hab (not_isPrefix_of_branches ?_ (isPrefix_of_mem_assign har) (isPrefix_of_mem_assign hbl))
      exact Bool.false_ne_true.symm
    · exact ihr har hbr

/-- The codewords of a tree fill the code space (R177). -/
theorem Node.sum_two_pow_assign {n : Node} {cw : Bits} {m : Nat} (h : cw.length + n.symbols.length ≤ m + 1) :
    ((n.assign cw).map fun e => 2 ^ (m - e.2.length)).sum = 2 ^ (m - cw.length) := by
  induction n generalizing cw with
  | leaf k f => simp [Node.assign]
  | internal l r f ihl ihr =>
    have hl := l.length_symbols_pos
    have hr := r.length_symbols_pos
    rw [Node.symbols, List.length_append] at h
    have hleft := ihl (cw := cw ++ [false]) (by rw [List.length_append, List.length_singleton]; omega)
    have hright := ihr (cw := cw ++ [true]) (by rw [List.length_append, List.length_singleton]; omega)
    rw [List.length_append, List.length_singleton] at hleft hright
    rw [Node.assign, List.map_append, List.sum_append, hleft, hright, ← two_mul, ← pow_succ']
    congr 1
    omega

/-! ## The rounds keep the symbols -/

theorem mergeStep_symbols_perm {w : List Node} (h : 2 ≤ w.length) :
    ((mergeStep w).flatMap Node.symbols).Perm (w.flatMap Node.symbols) := by
  obtain ⟨l, b, a, hsort⟩ := stableSortDescending_eq_append h
  have hsame := (stableSortDescending_perm w).flatMap_right Node.symbols
  rw [hsort] at hsame
  rw [mergeStep_of_sorted hsort]
  refine .trans ?_ hsame
  simpa [Node.symbols] using List.perm_append_comm.append_left (l.flatMap Node.symbols)

/-- The leaves of the tree are the leaves it was built from. -/
theorem exists_buildTree {w : List Node} (hw : w ≠ []) :
    ∃ root, buildTree w.length w = some root ∧ root.symbols.Perm (w.flatMap Node.symbols) := by
  obtain ⟨root, hroot, hperm⟩ := buildTree_induction
    (P := fun v => (v.flatMap Node.symbols).Perm (w.flatMap Node.symbols))
    (fun v hv hperm => (mergeStep_symbols_perm hv).trans hperm) hw (Nat.le_succ _) (.refl _)
  exact ⟨root, hroot, by simpa using hperm⟩

/-- The symbols whose count is not 0, in ascending code point. -/
def countedSymbols (s : State) : List Nat := (List.range Config.nsym).filter fun k => decide (s.freqCell k ≠ 0)

theorem mem_countedSymbols {s : State} {k : Nat} : k ∈ countedSymbols s ↔ k < Config.nsym ∧ s.freqCell k ≠ 0 := by
  rw [countedSymbols, List.mem_filter, List.mem_range, decide_eq_true_iff]

theorem countedSymbols_nodup (s : State) : (countedSymbols s).Nodup := List.nodup_range.filter _

theorem length_countedSymbols_le (s : State) : (countedSymbols s).length ≤ Config.nsym :=
  (List.length_filter_le ..).trans_eq List.length_range

/-- The initial working set holds one leaf for each symbol whose count is not 0 (R175). -/
theorem initialLeaves_symbols (s : State) : (initialLeaves s).flatMap Node.symbols = countedSymbols s := by
  unfold initialLeaves countedSymbols
  induction List.range Config.nsym with
  | nil => rfl
  | cons k ks ih =>
    by_cases hk : s.freqCell k = 0#32
    · simpa [hk] using ih
    · have hpos : 0 < (s.freqCell k).toNat := by bv_omega
      simpa [hk, hpos, Node.symbols] using ih

end Sys2Proof.Machine
end

section
/-! SUPPORT. A table written to CT (R46): what its entries read as, and that CT read as a table is the table written. -/

namespace Sys2Proof

theorem isSome_tableLookup {es : List (Nat × Bits)} {k : Nat} :
    (tableLookup es k).isSome = true ↔ k ∈ es.map Prod.fst := by
  induction es with
  | nil => simp [tableLookup]
  | cons e es ih =>
    obtain ⟨j, cw⟩ := e
    rw [tableLookup, List.map_cons, List.mem_cons]
    split_ifs with hjk
    · simp [hjk]
    · simp [ih, Ne.symm hjk]

theorem tableLookup_eq_none {es : List (Nat × Bits)} {k : Nat} (h : k ∉ es.map Prod.fst) : tableLookup es k = none := by
  rw [← isSome_tableLookup] at h
  simpa using h

/-- In a table with one entry for each symbol, looking up and being an entry are the same. -/
theorem tableLookup_eq_some_iff {es : List (Nat × Bits)} (h : (es.map Prod.fst).Nodup) {k : Nat} {cw : Bits} :
    tableLookup es k = some cw ↔ (k, cw) ∈ es := by
  refine ⟨mem_of_tableLookup, fun hmem => ?_⟩
  obtain ⟨cw', hcw'⟩ := Option.isSome_iff_exists.1 (isSome_tableLookup.2 (List.mem_map_of_mem hmem))
  have hsame : (k, cw') = (k, cw) := List.inj_on_of_nodup_map h (mem_of_tableLookup hcw') hmem rfl
  rw [hcw', (Prod.mk.inj hsame).2]

namespace Machine

/-- Writing entries one after the other leaves each at its place, and the rest as it was. -/
theorem read_foldl_write {es : List (Nat × Bits)} (h : (es.map Prod.fst).Nodup) (m : Mem CtCell) (k : Nat) :
    Mem.read (es.foldl (fun m e => Mem.write m e.1 (CtCell.ofCw e.2)) m) k =
      ((tableLookup es k).map CtCell.ofCw).or (Mem.read m k) := by
  induction es generalizing m with
  | nil => rfl
  | cons e es ih =>
    obtain ⟨j, cw⟩ := e
    obtain ⟨hj, hes⟩ := List.nodup_cons.1 h
    rw [List.foldl_cons, ih hes, Mem.read_write, tableLookup]
    by_cases hkj : k = j
    · rw [if_pos hkj, if_pos hkj.symm, hkj, tableLookup_eq_none hj]
      rfl
    · rw [if_neg hkj, if_neg (Ne.symm hkj)]

theorem read_ctOf {es : List (Nat × Bits)} (h : (es.map Prod.fst).Nodup) (k : Nat) :
    Mem.read (ctOf es) k = (tableLookup es k).map CtCell.ofCw := by
  rw [ctOf, read_foldl_write h, Mem.read_nil, Option.or_none]

theorem mem_ctTable {t : State} {k : Nat} {cw : Bits} :
    (k, cw) ∈ t.ctTable ↔ k < Config.nsym ∧ ∃ e, t.ctEntry k = some e ∧ e.cw = cw := by
  simp only [State.ctTable, List.mem_filterMap, List.mem_range, Option.map_eq_some_iff, Prod.mk.injEq]
  constructor
  · rintro ⟨_, hk, e, he, rfl, hcw⟩
    exact ⟨hk, e, he, hcw⟩
  · rintro ⟨hk, e, he, hcw⟩
    exact ⟨k, hk, e, he, rfl, hcw⟩

theorem ctTable_nodup (t : State) : t.ctTable.Nodup := by
  refine List.nodup_range.filterMap fun j k e hj hk => ?_
  obtain ⟨_, -, rfl⟩ := Option.map_eq_some_iff.1 hj
  obtain ⟨_, -, hkj⟩ := Option.map_eq_some_iff.1 hk
  exact (Prod.mk.inj hkj).1.symm

theorem length_ctTable (t : State) : t.ctTable.length = ctCount t := by
  rw [State.ctTable, ctCount, List.length_filterMap_eq_countP, List.countP_eq_length_filter]
  simp

/-- CT that holds a table of representable codewords reads as that table. -/
theorem TableIs.ctTable_perm {t : State} {es : List (Nat × Bits)} (h : TableIs t es) (hnodup : (es.map Prod.fst).Nodup)
    (hes : ∀ e ∈ es, e.1 < Config.nsym ∧ e.2.length ≤ Config.cwMax) : t.ctTable.Perm es := by
  refine (List.perm_ext_iff_of_nodup (ctTable_nodup t) (hnodup.of_map Prod.fst)).2 fun ⟨k, cw⟩ => ?_
  rw [mem_ctTable, h k]
  constructor
  · rintro ⟨-, e, he, hcw⟩
    obtain ⟨cw', hlookup, rfl⟩ := Option.map_eq_some_iff.1 he
    have hmem := mem_of_tableLookup hlookup
    rwa [← hcw, ofCw_cw (hes _ hmem).2]
  · intro hmem
    obtain ⟨hk, hlen⟩ := hes _ hmem
    exact ⟨hk, _, Option.map_eq_some_iff.2 ⟨cw, (tableLookup_eq_some_iff hnodup).2 hmem, rfl⟩, ofCw_cw hlen⟩

end Machine
end Sys2Proof
end

section
/-! SUPPORT. HUF_BUILD (R173): the table it writes, its shape (R177), and the table of one symbol (R178). -/

namespace Sys2Proof.Machine

theorem exec_hufBuild (s : State) : exec .hufBuild s = issue true hufBuild s := rfl

theorem exec_hdrSer (s : State) : exec .hdrSer s = issue (s.olenLegal && s.ctLegal) hdrSer s := rfl

/-! ## The tree of the counts -/

/-- `root` is the tree built from the counts of `s`. -/
abbrev TreeOf (s : State) (root : Node) : Prop :=
  buildTree (initialLeaves s).length (initialLeaves s) = some root

theorem initialLeaves_eq_nil_iff {s : State} : initialLeaves s = [] ↔ ∀ k, k < Config.nsym → s.freqCell k = 0 := by
  simp only [initialLeaves, List.filterMap_eq_nil_iff, List.mem_range]
  refine forall₂_congr fun k _ => ?_
  by_cases hk : s.freqCell k = 0#32
  · simp [hk]
  · have hpos : 0 < (s.freqCell k).toNat := by bv_omega
    simp [hk, hpos]

section
variable {s : State} {root : Node}

theorem TreeOf.symbols_perm (h : TreeOf s root) : root.symbols.Perm (countedSymbols s) := by
  have hne : initialLeaves s ≠ [] := by
    intro hnil
    rw [TreeOf, hnil] at h
    cases h
  obtain ⟨root', hroot', hperm⟩ := exists_buildTree hne
  obtain rfl : root' = root := Option.some.inj (hroot'.symm.trans h)
  rwa [initialLeaves_symbols] at hperm

theorem TreeOf.keys_nodup (h : TreeOf s root) : ((root.assign []).map Prod.fst).Nodup := by
  rw [Node.map_fst_assign]
  exact h.symbols_perm.nodup_iff.2 (countedSymbols_nodup s)

theorem TreeOf.mem_keys (h : TreeOf s root) {k : Nat} :
    k ∈ (root.assign []).map Prod.fst ↔ k < Config.nsym ∧ s.freqCell k ≠ 0 := by
  rw [Node.map_fst_assign, h.symbols_perm.mem_iff, mem_countedSymbols]

theorem TreeOf.length_symbols_le (h : TreeOf s root) : root.symbols.length ≤ Config.nsym :=
  h.symbols_perm.length_eq.trans_le (length_countedSymbols_le s)

theorem TreeOf.entry_fits (h : TreeOf s root) {e : Nat × Bits} (he : e ∈ root.assign []) :
    e.1 < Config.nsym ∧ e.2.length ≤ Config.cwMax := by
  refine ⟨(h.mem_keys.1 (List.mem_map_of_mem he)).1, ?_⟩
  have hdepth : e.2.length < 0 + root.symbols.length := Node.length_lt_of_mem_assign he
  have hleaves : root.symbols.length ≤ 95 := h.length_symbols_le
  show e.2.length ≤ 94
  omega

/-- The state HUF_BUILD leaves when the tree is `root` (R173). -/
abbrev builtFrom (s : State) (root : Node) : State := (s.replaceCt (ctOf (root.assign []))).complete

theorem TreeOf.hufBuild_eq (h : TreeOf s root) : hufBuild s = .ok (s.replaceCt (ctOf (root.assign []))) := by
  rw [TreeOf] at h
  rw [hufBuild, h]

theorem TreeOf.exec_eq (h : TreeOf s root) (hs : s.status = .ready) : exec .hufBuild s = .next (builtFrom s root) := by
  rw [exec_hufBuild]
  exact issue_of_body_ok hs rfl h.hufBuild_eq

theorem TreeOf.tableIs (h : TreeOf s root) : TableIs (builtFrom s root) (root.assign []) := read_ctOf h.keys_nodup

theorem TreeOf.ctTable_perm (h : TreeOf s root) : (builtFrom s root).ctTable.Perm (root.assign []) :=
  h.tableIs.ctTable_perm h.keys_nodup fun _ => h.entry_fits

end

theorem exists_treeOf {s : State} {k : Nat} (hk : k < Config.nsym) (hcount : s.freqCell k ≠ 0) :
    ∃ root, TreeOf s root := by
  have hne : initialLeaves s ≠ [] := fun hnil => hcount (initialLeaves_eq_nil_iff.1 hnil k hk)
  obtain ⟨root, hroot, -⟩ := exists_buildTree hne
  exact ⟨root, hroot⟩

/-- HUF_BUILD that ends in READY has built a tree. -/
theorem treeOf_of_exec {s t : State} (hs : s.status = .ready) (hx : exec .hufBuild s = .next t)
    (ht : t.status = .ready) : ∃ root, TreeOf s root ∧ t = builtFrom s root := by
  obtain ⟨-, u, hbody, rfl⟩ := issue_ready_done hs hx ht
  cases hroot : buildTree (initialLeaves s).length (initialLeaves s) with
  | none => simp [hufBuild, hroot] at hbody
  | some root =>
    have htree : TreeOf s root := hroot
    rw [htree.hufBuild_eq] at hbody
    exact ⟨root, htree, congrArg State.complete (Except.ok.inj hbody).symm⟩

/-! ## HUF_BUILD (R173, R176) -/

/-- Settles O33: CT is written from the tree's leaves, which are the symbols with a count; what HUF_BUILD leaves
unchanged is its row of the access table. -/
theorem hufBuildWritesTheTreesCodewords : Obligations.HufBuildWritesTheTreesCodewords := by
  refine ⟨fun s hs ⟨k, hk, hcount⟩ => ?_, fun s hs hzero => ?_⟩
  · obtain ⟨root, htree⟩ := exists_treeOf hk hcount
    have hrun := htree.exec_eq hs
    obtain ⟨hinputs, houtside, hnbits, hval, hobuf, hout, -, hnew⟩ :=
      exec_leavesUnmarked (i := .hufBuild) (by decide) hs hrun rfl
    obtain ⟨holen, hobuf⟩ := hobuf (by decide)
    obtain ⟨houtlen, hout⟩ := hout (by decide)
    refine ⟨_, root, hrun, State.complete_done _, htree, htree.tableIs, htree.keys_nodup, fun j => ?_, hinputs,
      houtside, hnew (by decide), hnbits (by decide), hval (by decide), holen, hobuf, houtlen, hout⟩
    rw [htree.tableIs j, Option.isSome_map, isSome_tableLookup, htree.mem_keys]
  · have hbody : hufBuild s = .error .invalidInput := by
      rw [hufBuild, initialLeaves_eq_nil_iff.2 hzero]
      rfl
    rw [exec_hufBuild]
    exact issue_of_body_error hs rfl hbody

/-! ## The shape of the table (R177) -/

section
variable {s : State} {root : Node}

/-- Of two entries of the table HUF_BUILD leaves, neither codeword begins the other's. -/
theorem TreeOf.eq_of_isPrefix (h : TreeOf s root) {a b : Nat × Bits} (ha : a ∈ (builtFrom s root).ctTable)
    (hb : b ∈ (builtFrom s root).ctTable) (hab : a.2 <+: b.2) : a = b :=
  Node.eq_of_mem_assign_of_isPrefix (h.ctTable_perm.mem_iff.1 ha) (h.ctTable_perm.mem_iff.1 hb) hab

/-- An empty codeword begins every other one, so it is the only one. -/
theorem TreeOf.codeword_ne_nil (h : TreeOf s root) (htwo : 2 ≤ (builtFrom s root).ctTable.length) {e : Nat × Bits}
    (he : e ∈ (builtFrom s root).ctTable) : e.2 ≠ [] := by
  intro hnil
  have hall : ∀ b ∈ (builtFrom s root).ctTable, e = b :=
    fun b hb => h.eq_of_isPrefix he hb (hnil ▸ List.nil_prefix)
  have hone := List.nodup_iff_count_le_one.1 (ctTable_nodup (builtFrom s root)) e
  rw [List.count_eq_length.2 hall] at hone
  omega

end

/-- Settles O34: CT is the tree's codewords, of which none begins another and which fill the code space. -/
theorem hufBuildTableIsPrefixFreeAndComplete : Obligations.HufBuildTableIsPrefixFreeAndComplete := by
  intro s t hs hx ht
  obtain ⟨root, htree, rfl⟩ := treeOf_of_exec hs hx ht
  have hperm := htree.ctTable_perm
  refine ⟨fun a ha b hb hne hab => hne (congrArg Prod.fst (htree.eq_of_isPrefix ha hb hab)),
    fun e he => (htree.entry_fits (hperm.mem_iff.1 he)).2, ?_,
    fun htwo e he => List.length_pos_iff.2 (htree.codeword_ne_nil htwo he)⟩
  rw [(hperm.map _).sum_eq]
  exact Node.sum_two_pow_assign (by simpa using htree.length_symbols_le)

/-! ## One symbol alone (R178) -/

/-- Entries that are not valid write nothing. -/
theorem serEntries_append_of_none {s : State} {l : List Nat} (h : ∀ j ∈ l, s.ctEntry j = none) (ks : List Nat) :
    serEntries (l ++ ks) s = serEntries ks s := by
  induction l with
  | nil => rfl
  | cons j l ih =>
    obtain ⟨hj, hl⟩ := List.forall_mem_cons.1 h
    rw [List.cons_append, serEntries, hj]
    exact ih hl

/-- The codeword's length comes after the symbol, and 0 has no code (R191, R145). -/
theorem serEntry_of_empty {s : State} {k : Nat} (hroom : s.olen + Config.symw ≤ s.par.obMax) :
    serEntry s k (CtCell.ofCw []) = .error .invalidInput := by
  rw [serEntry, emit_ok_iff.2 ⟨by simpa using hroom, rfl⟩]
  rfl

/-- A header's entries stop at an empty codeword that is the first one. -/
theorem serEntries_of_first_empty {s : State} {k : Nat} {l r : List Nat} (hl : ∀ j ∈ l, s.ctEntry j = none)
    (hk : s.ctEntry k = some (CtCell.ofCw [])) (hroom : s.olen + Config.symw ≤ s.par.obMax) :
    serEntries (l ++ k :: r) s = .error .invalidInput := by
  rw [serEntries_append_of_none hl, serEntries, hk]
  simp only [serEntry_of_empty hroom]

section
variable {s : State} {k : Nat}

theorem TableIs.single_empty (h : TableIs s [(k, [])]) (j : Nat) :
    s.ctEntry j = if k = j then some (CtCell.ofCw []) else none := by
  rw [h j, tableLookup]
  split_ifs <;> rfl

theorem TableIs.ctTable_single_empty (hk : k < Config.nsym) (h : TableIs s [(k, [])]) : s.ctTable = [(k, [])] :=
  List.perm_singleton.1 (h.ctTable_perm (List.nodup_singleton k) (by simpa using hk))

theorem TableIs.ctLegal_single_empty (h : TableIs s [(k, [])]) : s.ctLegal = true := by
  refine List.all_eq_true.2 fun j _ => ?_
  rw [h.single_empty j]
  by_cases hkj : k = j
  · rw [if_pos hkj]
    decide
  · rw [if_neg hkj]

/-- A table of one symbol with the empty codeword has no header, also where its count and its symbol fit. -/
theorem hdrSer_of_single_empty (hk : k < Config.nsym) (h : TableIs s [(k, [])]) (hroom : s.olen + 8 ≤ s.par.obMax) :
    hdrSer s = .error .invalidInput := by
  have hcount : ctCount s = 1 := by rw [← length_ctTable, h.ctTable_single_empty hk, List.length_singleton]
  have hlen : (eoCode 1).length = 1 := by decide
  obtain ⟨l, r, hrange⟩ := List.append_of_mem (List.mem_range.2 hk)
  have hl : ∀ j ∈ l, s.ctEntry j = none := by
    intro j hj
    have hne : k ≠ j := by
      rintro rfl
      have hnodup : (l ++ k :: r).Nodup := hrange ▸ List.nodup_range
      exact List.disjoint_of_nodup_append hnodup hj List.mem_cons_self
    rw [h.single_empty j, if_neg hne]
  have hkentry : s.ctEntry k = some (CtCell.ofCw []) := by rw [h.single_empty k, if_pos rfl]
  rw [hdrSer, hcount, eoEmit_ok_iff.2 ⟨one_ne_zero, emit_ok_iff.2 ⟨by omega, rfl⟩⟩, hrange]
  refine serEntries_of_first_empty hl hkentry ?_
  rw [State.setOlen_olen, hlen]
  exact hroom

end

/-- A tree of one symbol is a leaf. -/
theorem Node.assign_of_symbols_singleton {n : Node} {k : Nat} (h : n.symbols = [k]) : n.assign [] = [(k, [])] := by
  cases n with
  | leaf j f =>
    obtain rfl : j = k := List.singleton_inj.1 h
    rfl
  | internal l r f =>
    have hl := l.length_symbols_pos
    have hr := r.length_symbols_pos
    have hlength := congrArg List.length h
    rw [Node.symbols, List.length_append, List.length_singleton] at hlength
    omega

/-- Settles O35: the tree of one symbol is its leaf, whose path is empty; HDR_SER comes to that entry's length, which has
no code. -/
theorem singleSymbolGetsTheEmptyCodeword : Obligations.SingleSymbolGetsTheEmptyCodeword := by
  intro s k hs hk hcount hothers hroom
  obtain ⟨root, htree⟩ := exists_treeOf hk hcount
  have hcounted : (countedSymbols s).Perm [k] := by
    refine (List.perm_ext_iff_of_nodup (countedSymbols_nodup s) (List.nodup_singleton k)).2 fun j => ?_
    rw [mem_countedSymbols, List.mem_singleton]
    refine ⟨fun ⟨hj, hne⟩ => by_contra fun hjk => hne (hothers j hj hjk), ?_⟩
    rintro rfl
    exact ⟨hk, hcount⟩
  have hassign := Node.assign_of_symbols_singleton (List.perm_singleton.1 (htree.symbols_perm.trans hcounted))
  have htable := htree.tableIs
  rw [hassign] at htable
  have hlegal : ((builtFrom s root).olenLegal && (builtFrom s root).ctLegal) = true := by
    rw [htable.ctLegal_single_empty, Bool.and_true]
    exact decide_eq_true (by show s.olen ≤ s.par.obMax; omega)
  obtain ⟨u, hrun, hfault⟩ :=
    issue_of_body_error (s := builtFrom s root) rfl hlegal (hdrSer_of_single_empty hk htable hroom)
  exact ⟨_, u, htree.exec_eq hs, State.complete_done _, htable.ctTable_single_empty hk, hrun, hfault⟩

end Sys2Proof.Machine
end

section
/-! SUPPORT. HDR_SER (R190 to R192): a header is one append of its bits, up to the first empty codeword. -/

namespace Sys2Proof.Machine

/-! ## Appends one after the other (R79) -/

/-- Appending a sequence is appending its parts in turn; it does not fit where one of them does not. -/
theorem emit_append (s : State) (a b : Bits) : emit s (a ++ b) = emit s a >>= fun t => emit t b := by
  cases ha : emit s a with
  | ok t =>
    obtain ⟨hfits, rfl⟩ := emit_ok_iff.1 ha
    show emit s (a ++ b) = emit _ b
    simp [emit_eq, writeSeq_append, State.setObuf, State.setOlen, Nat.add_assoc]
  | error k =>
    obtain ⟨hfull, rfl⟩ := emit_error_iff.1 ha
    refine emit_error_iff.2 ⟨?_, rfl⟩
    rw [List.length_append]
    omega

/-- An append leaves the parameters and CT as they are, and OLEN within OBUF. -/
theorem emit_ok_frame {s t : State} {b : Bits} (h : emit s b = .ok t) :
    t.par = s.par ∧ t.ct = s.ct ∧ t.olen ≤ t.par.obMax := by
  obtain ⟨hfits, rfl⟩ := emit_ok_iff.1 h
  exact ⟨rfl, rfl, hfits⟩

/-- What follows an append is compared where the append succeeded only. -/
theorem emit_bind_congr {s : State} {b : Bits} {f g : State → Except ErrKind State}
    (h : ∀ t, emit s b = .ok t → f t = g t) : emit s b >>= f = emit s b >>= g := by
  cases ht : emit s b with
  | error x => rfl
  | ok t => exact h t ht

/-- A sequence appended before a part that raises InvalidInput decides by its length which kind is raised (R191). -/
theorem emit_bind_invalidInput (s : State) (b : Bits) :
    (emit s b >>= fun _ => (.error .invalidInput : Except ErrKind State)) =
      .error (if s.olen + b.length ≤ s.par.obMax then .invalidInput else .capacityExceeded) := by
  rw [emit_eq]
  split_ifs <;> rfl

/-! ## The parts of `HdrSer` (R191) -/

theorem serEntry_eq_bind (s : State) (k : Nat) (e : CtCell) :
    serEntry s k e = emit s (binN Config.symw (s.par.symMin + k)) >>= fun s1 =>
      eoEmit s1 e.len.toNat >>= fun s2 => emit s2 e.cw := by
  rw [serEntry]
  cases emit s (binN Config.symw (s.par.symMin + k)) with
  | error x => rfl
  | ok s1 =>
    dsimp only
    show _ = eoEmit s1 e.len.toNat >>= fun s2 => emit s2 e.cw
    cases eoEmit s1 e.len.toNat <;> rfl

theorem serEntries_cons_none {s : State} {k : Nat} (h : s.ctEntry k = none) (ks : List Nat) :
    serEntries (k :: ks) s = serEntries ks s := by
  rw [serEntries, h]

theorem serEntries_cons_some {s : State} {k : Nat} {e : CtCell} (h : s.ctEntry k = some e) (ks : List Nat) :
    serEntries (k :: ks) s = serEntry s k e >>= serEntries ks := by
  rw [serEntries, h]
  dsimp only
  cases serEntry s k e <;> rfl

theorem hdrSer_eq_bind (s : State) : hdrSer s = eoEmit s (ctCount s) >>= serEntries (List.range Config.nsym) := by
  rw [hdrSer]
  cases eoEmit s (ctCount s) <;> rfl

/-! ## One entry (R103) -/

theorem length_cw (e : CtCell) : e.cw.length = e.len.toNat := by simp [CtCell.cw]

/-- An entry with a codeword is one append of format ENTRY. -/
theorem serEntry_eq_emit (s : State) (k : Nat) {e : CtCell} (h : e.cw ≠ []) :
    serEntry s k e = emit s (entryBits s.par.symMin (k, e.cw)) := by
  have hlen : e.len.toNat ≠ 0 := by rwa [← length_cw, Ne, List.length_eq_zero_iff]
  rw [serEntry_eq_bind, entryBits, List.append_assoc, emit_append]
  refine bind_congr fun s1 => ?_
  rw [eoEmit_of_ne_zero s1 hlen, emit_append, length_cw]

/-- An empty codeword is refused once its symbol is written, because its length has no code (R145, R178). -/
theorem serEntry_of_cw_nil (s : State) (k : Nat) {e : CtCell} (h : e.cw = []) :
    serEntry s k e = emit s (binN Config.symw (s.par.symMin + k)) >>= fun _ => .error .invalidInput := by
  have hlen : e.len.toNat = 0 := by rw [← length_cw, h, List.length_nil]
  rw [serEntry_eq_bind, hlen]
  rfl

/-! ## The entries -/

/-- The valid entries among the given entry numbers, with their codewords. -/
def State.entriesAmong (s : State) (ks : List Nat) : List (Nat × Bits) :=
  ks.filterMap fun k => (s.ctEntry k).map fun e => (k, e.cw)

theorem ctTable_eq_entriesAmong (s : State) : s.ctTable = s.entriesAmong (List.range Config.nsym) := rfl

theorem entriesAmong_congr {s t : State} (h : t.ct = s.ct) (ks : List Nat) : t.entriesAmong ks = s.entriesAmong ks := by
  simp only [State.entriesAmong, State.ctEntry, h]

theorem entriesAmong_cons_none {s : State} {k : Nat} (h : s.ctEntry k = none) (ks : List Nat) :
    s.entriesAmong (k :: ks) = s.entriesAmong ks := by simp [State.entriesAmong, h]

theorem entriesAmong_cons_some {s : State} {k : Nat} {e : CtCell} (h : s.ctEntry k = some e) (ks : List Nat) :
    s.entriesAmong (k :: ks) = (k, e.cw) :: s.entriesAmong ks := by simp [State.entriesAmong, h]

/-- The entries before the first empty codeword are one append of their formats, in the order of the entry numbers. -/
theorem serEntries_append {s : State} {l : List Nat} (h : ∀ e ∈ s.entriesAmong l, e.2 ≠ [])
    (holen : s.olen ≤ s.par.obMax) (r : List Nat) :
    serEntries (l ++ r) s = emit s ((s.entriesAmong l).flatMap (entryBits s.par.symMin)) >>= serEntries r := by
  induction l generalizing s with
  | nil =>
    show serEntries r s = emit s [] >>= serEntries r
    rw [emit_nil holen]
    rfl
  | cons k l ih =>
    rw [List.cons_append]
    cases hk : s.ctEntry k with
    | none =>
      rw [entriesAmong_cons_none hk] at h ⊢
      rw [serEntries_cons_none hk, ih h holen]
    | some e =>
      rw [entriesAmong_cons_some hk] at h ⊢
      obtain ⟨hcw, hrest⟩ := List.forall_mem_cons.1 h
      rw [serEntries_cons_some hk, serEntry_eq_emit s k hcw, List.flatMap_cons, emit_append, bind_assoc]
      refine emit_bind_congr fun t ht => ?_
      obtain ⟨hpar, hct, holen⟩ := emit_ok_frame ht
      rw [← entriesAmong_congr hct] at hrest ⊢
      rw [ih hrest holen, hpar]

/-- The count and the entries before the first empty codeword are one append (R190). -/
theorem hdrSer_append {s : State} {l r : List Nat} (hrange : List.range Config.nsym = l ++ r) (hne : s.ctTable ≠ [])
    (h : ∀ e ∈ s.entriesAmong l, e.2 ≠ []) :
    hdrSer s = emit s (eoCode s.ctTable.length ++ (s.entriesAmong l).flatMap (entryBits s.par.symMin)) >>=
      serEntries r := by
  have hcount : ctCount s ≠ 0 := by rwa [← length_ctTable, Ne, List.length_eq_zero_iff]
  rw [hdrSer_eq_bind, eoEmit_of_ne_zero s hcount, emit_append, bind_assoc, hrange, length_ctTable]
  refine emit_bind_congr fun t ht => ?_
  obtain ⟨hpar, hct, holen⟩ := emit_ok_frame ht
  rw [← entriesAmong_congr hct] at h ⊢
  rw [serEntries_append h holen, hpar]

/-! ## The three ends of `HdrSer` -/

/-- A table with an entry and without an empty codeword is one append of its header (R190, R191). -/
theorem hdrSer_eq_emit {s : State} (hne : s.ctTable ≠ []) (h : ∀ e ∈ s.ctTable, e.2 ≠ []) :
    hdrSer s = emit s (headerBits s.par.symMin s.ctTable) := by
  rw [hdrSer_append (l := List.range Config.nsym) (r := []) (List.append_nil _).symm hne h, ← ctTable_eq_entriesAmong,
    headerBits]
  cases emit s _ <;> rfl

theorem hdrSer_of_ctTable_nil {s : State} (h : s.ctTable = []) : hdrSer s = .error .invalidInput := by
  rw [hdrSer_eq_bind, ← length_ctTable, h, List.length_nil, eoEmit_zero]
  rfl

/-- An entry of CT has an entry number at which the entries before it end. -/
theorem exists_range_eq_append {s : State} {before rest : List (Nat × Bits)} {k : Nat} {cw : Bits}
    (h : s.ctTable = before ++ (k, cw) :: rest) :
    ∃ l r e, List.range Config.nsym = l ++ k :: r ∧ s.entriesAmong l = before ∧ s.ctEntry k = some e ∧ e.cw = cw := by
  obtain ⟨l₁, l₂, hrange, hbefore, hafter⟩ := List.filterMap_eq_append_iff.1 h
  obtain ⟨l₃, j, r, rfl, hnone, hj, -⟩ := List.filterMap_eq_cons_iff.1 hafter
  obtain ⟨e, he, hpair⟩ := Option.map_eq_some_iff.1 hj
  obtain ⟨rfl, hcw⟩ := Prod.mk.inj hpair
  refine ⟨l₁ ++ l₃, r, e, by rw [hrange, List.append_assoc], ?_, he, hcw⟩
  rw [State.entriesAmong, List.filterMap_append, hbefore, List.filterMap_eq_nil_iff.2 hnone, List.append_nil]

/-- At the first empty codeword the kind depends on whether what comes before its length fits (R191). -/
theorem hdrSer_of_first_empty {s : State} {before rest : List (Nat × Bits)} {k : Nat}
    (h : s.ctTable = before ++ (k, []) :: rest) (hbefore : ∀ e ∈ before, e.2 ≠ []) :
    hdrSer s = .error (if s.olen + eoLen s.ctTable.length + (before.flatMap (entryBits s.par.symMin)).length + Config.symw
      ≤ s.par.obMax then .invalidInput else .capacityExceeded) := by
  obtain ⟨l, r, e, hrange, rfl, hk, hcw⟩ := exists_range_eq_append h
  have hne : s.ctTable ≠ [] := by simp [h]
  have hall : hdrSer s = emit s (eoCode s.ctTable.length ++ (s.entriesAmong l).flatMap (entryBits s.par.symMin) ++
      binN Config.symw (s.par.symMin + k)) >>= fun _ => .error .invalidInput := by
    rw [hdrSer_append hrange hne hbefore, emit_append s (eoCode s.ctTable.length ++ _), bind_assoc]
    refine emit_bind_congr fun t ht => ?_
    obtain ⟨hpar, hct, -⟩ := emit_ok_frame ht
    have hkt : t.ctEntry k = some e := by rw [State.ctEntry, hct, ← State.ctEntry, hk]
    rw [serEntries_cons_some hkt, serEntry_of_cw_nil t k hcw, bind_assoc, hpar]
    rfl
  rw [hall, emit_bind_invalidInput, List.length_append, List.length_append, length_binN, eoLen, Nat.add_assoc s.olen,
    Nat.add_assoc s.olen]

/-- `HdrSer` accepts no empty table and no empty codeword. -/
theorem encodable_of_hdrSer_ok {s u : State} (h : hdrSer s = .ok u) : s.ctTable ≠ [] ∧ ∀ e ∈ s.ctTable, e.2 ≠ [] := by
  refine ⟨fun hnil => ?_, fun e he hcw => ?_⟩
  · rw [hdrSer_of_ctTable_nil hnil] at h
    cases h
  · obtain ⟨⟨k, cw⟩, before, rest, hbefore, hempty, htable, -⟩ :=
      List.exists_of_eraseP (p := fun e : Nat × Bits => e.2 = []) he (by simpa using hcw)
    obtain rfl : cw = [] := by simpa using hempty
    rw [hdrSer_of_first_empty htable (by simpa using hbefore)] at h
    cases h

/-! ## HDR_SER -/

theorem hdrSer_legal {s : State} (holen : s.olen ≤ s.par.obMax) (hct : s.ctLegal = true) :
    (s.olenLegal && s.ctLegal) = true := by
  rw [hct, Bool.and_true]
  exact decide_eq_true holen

/-- Settles O37: HDR_SER is one append of the header; what it leaves unchanged is its row of the access table. -/
theorem hdrSerAppendsTheHeader : Obligations.HdrSerAppendsTheHeader := by
  intro s hs hct hne hcw
  have hbody : hdrSer s = emit s (headerBits s.par.symMin s.ctTable) :=
    hdrSer_eq_emit hne fun e he => List.length_pos_iff.1 (hcw e he)
  rw [exec_hdrSer]
  refine ⟨fun hfits => ?_, fun holen hfull => ?_⟩
  · have hrun := issue_of_body_ok hs (hdrSer_legal (by omega) hct) (hbody.trans (emit_ok_iff.2 ⟨hfits, rfl⟩))
    obtain ⟨hinputs, houtside, hnbits, hval, -, hout, hsame, -⟩ :=
      exec_leavesUnmarked (i := .hdrSer) (by decide) hs hrun rfl
    obtain ⟨houtlen, hout⟩ := hout (by decide)
    exact ⟨_, hrun, State.complete_done _, appendedBits_writeSeq s (headerBits s.par.symMin s.ctTable), hinputs, houtside,
      hnbits (by decide), hval (by decide), houtlen, hout, hsame (by decide)⟩
  · exact issue_of_body_error hs (hdrSer_legal holen hct) (hbody.trans (emit_error_iff.2 ⟨hfull, rfl⟩))

/-- Settles O38: the count of an empty table has no code, and neither has the length of an empty codeword. -/
theorem hdrSerRefusesEmptyTablesAndCodewords : Obligations.HdrSerRefusesEmptyTablesAndCodewords := by
  intro s hs holen hct
  have hlegal := hdrSer_legal holen hct
  rw [exec_hdrSer]
  exact ⟨fun hnil => issue_of_body_error hs hlegal (hdrSer_of_ctTable_nil hnil),
    fun before rest k htable hbefore => issue_of_body_error hs hlegal (hdrSer_of_first_empty htable hbefore)⟩

/-! ## The length of a header (R192) -/

/-- A table has no more entries than there are symbols. -/
theorem length_le_nsym {es : List (Nat × Bits)} (hnodup : (es.map Prod.fst).Nodup) (h : ∀ e ∈ es, e.1 < Config.nsym) :
    es.length ≤ Config.nsym := by
  have hsubset : es.map Prod.fst ⊆ List.range Config.nsym := by
    intro k hk
    obtain ⟨e, he, rfl⟩ := List.mem_map.1 hk
    exact List.mem_range.2 (h e he)
  simpa using (hnodup.subperm hsubset).length_le

theorem length_entryBits (symMin : Nat) (e : Nat × Bits) :
    (entryBits symMin e).length = 7 + eoLen e.2.length + e.2.length := by
  rw [entryBits, List.length_append, List.length_append, length_binN, eoLen]

theorem length_headerBits (symMin : Nat) (es : List (Nat × Bits)) : (headerBits symMin es).length =
    eoLen es.length + (es.map fun e => 7 + eoLen e.2.length + e.2.length).sum := by
  simp only [headerBits, List.length_append, List.length_flatMap, length_entryBits, eoLen]

/-- The codes of the largest count and of the longest codeword's length have 13 bits each. -/
theorem eoLen_nsym : eoLen 95 = 13 ∧ eoLen 94 = 13 := by decide

/-- Settles O39: 95 entries with codewords of 94 bits have the longest header. -/
theorem headerIsAtMost10843Bits : Obligations.HeaderIsAtMost10843Bits := by
  intro symMin es ⟨hne, hnodup, hes⟩
  obtain ⟨hcount, hlength⟩ := eoLen_nsym
  have hpos : 1 ≤ es.length := List.length_pos_iff.2 hne
  have hle : es.length ≤ 95 := length_le_nsym hnodup fun e he => (hes e he).1
  have hcode : eoLen es.length ≤ eoLen 95 := eoLen_mono hpos hle
  have hentry : ∀ n ∈ es.map fun e => 7 + eoLen e.2.length + e.2.length, n ≤ 114 := by
    intro n hn
    obtain ⟨e, he, rfl⟩ := List.mem_map.1 hn
    obtain ⟨-, hcw, hcwMax⟩ := hes e he
    have hcwMax : e.2.length ≤ 94 := hcwMax
    have hcode : eoLen e.2.length ≤ eoLen 94 := eoLen_mono hcw hcwMax
    omega
  have hsum := List.sum_le_card_nsmul _ 114 hentry
  rw [List.length_map, smul_eq_mul] at hsum
  refine ⟨length_headerBits symMin es, ?_⟩
  rw [length_headerBits]
  omega

end Sys2Proof.Machine
end

section
/-! SUPPORT. HDR_DES (R195): what it does on a header, entry by entry, and where it stops. -/

namespace Sys2Proof.Machine

/-! ## What stands in IBUF -/

theorem State.ibufHolds_append {s : State} {p : Nat} {a b : Bits} (h : s.IbufHolds p (a ++ b)) :
    s.IbufHolds p a ∧ s.IbufHolds (p + a.length) b := by
  obtain ⟨hread, hend⟩ := h
  obtain ⟨hreada, hreadb⟩ := (inSeq_append_iff ..).1 hread
  rw [List.length_append] at hend
  exact ⟨⟨hreada, by omega⟩, hreadb, by omega⟩

/-- Data that ends in two parts ends in the second, and the first, where it is not empty, lies below INLEN. -/
theorem State.ibufEnds_append {s : State} {p : Nat} {a b : Bits} (ha : a ≠ []) (h : s.IbufEnds p (a ++ b)) :
    s.IbufHolds p a ∧ s.inSeq (p + a.length) b.length = b ∧ s.inlen = p + a.length + b.length := by
  obtain ⟨hread, hend⟩ := h
  obtain ⟨hreada, hreadb⟩ := (inSeq_append_iff ..).1 hread
  have hend : s.inlen = p + (a ++ b).length := hend.resolve_right fun h => ha (List.append_eq_nil_iff.1 h.1).1
  rw [List.length_append] at hend
  exact ⟨⟨hreada, by omega⟩, hreadb, by omega⟩

/-- Where the code of an integer within the bound stands, it is decoded (R149). -/
theorem State.eoDecode_of_eoCode {s : State} {p n : Nat} (hn : 1 ≤ n) (hbound : n < 2 ^ s.par.eoMaxGroup)
    (h : s.IbufHolds p (eoCode n)) : s.eoDecode p = .value n (eoCode n).length :=
  eoDecode_eoCode hn hbound h.1 h.2

/-- Where the bits of a number stand, it is read (R77). -/
theorem State.inBits_of_binN {s : State} {p w v : Nat} (hv : v < 2 ^ w) (h : s.IbufHolds p (binN w v)) :
    s.inBits p w = v := by
  have hread : s.inSeq p w = binN w v := by simpa using h.1
  rw [State.inSeq] at hread
  rw [State.inBits, Sys2Proof.inBits, hread, val_binN w v hv]

/-! ## Entries and symbol codes -/

/-- The entries of a header read so far: distinct symbols, codewords of 1 to CW_MAX bits (R195); also none. -/
abbrev EntriesWf (es : List (Nat × Bits)) : Prop :=
  (es.map Prod.fst).Nodup ∧ ∀ e ∈ es, e.1 < Config.nsym ∧ 1 ≤ e.2.length ∧ e.2.length ≤ Config.cwMax

theorem tableWf_iff {es : List (Nat × Bits)} : TableWf es ↔ es ≠ [] ∧ EntriesWf es := Iff.rfl

theorem entriesWf_of_tableWf {es : List (Nat × Bits)} (h : es ≠ [] → TableWf es) : EntriesWf es := by
  by_cases hne : es = []
  · subst hne
    exact ⟨List.nodup_nil, fun _ h => absurd h List.not_mem_nil⟩
  · exact (tableWf_iff.1 (h hne)).2

/-- The code of entry `k` lies in the alphabet and has seven bits (R8, R131). -/
theorem symOk_of_entry {p : Params} (hp : p.wf = true) {k : Nat} (hk : k < Config.nsym) :
    p.symOk (p.symMin + k) = true ∧ p.symMin + k < 2 ^ Config.symw := by
  simp only [Params.wf, Bool.and_eq_true, decide_eq_true_eq] at hp
  simp only [Params.symOk, Bool.and_eq_true, decide_eq_true_eq]
  simp only [Params.symMax, Config.nsym, Config.symw] at hp hk ⊢
  omega

/-- The group bound allows every number below 128 (R7). -/
theorem lt_two_pow_eoMaxGroup {p : Params} (hp : p.wf = true) {n : Nat} (hn : n < 128) : n < 2 ^ p.eoMaxGroup :=
  hn.trans_le (Nat.pow_le_pow_right (n := 2) two_pos (Params.seven_le_valw hp))

/-! ## The parts of `HdrDes` (R195) -/

/-- The state in which `HdrDes` has written the entries `es` and its cursor stands at `c`. -/
abbrev State.readTo (s : State) (es : List (Nat × Bits)) (c : Nat) : State := (s.replaceCt (ctOf es)).setCur c

section
variable {s : State} {es : List (Nat × Bits)} {c : Nat}

theorem headerInt_of_value {n k : Nat} (h : s.eoDecode c = .value n k) :
    headerInt (s.readTo es c) = .ok (n, s.readTo es (c + k)) := by
  have h : (s.readTo es c).eoDecode (s.readTo es c).cur = .value n k := h
  rw [headerInt, h]
  rfl

theorem headerInt_of_truncated (h : s.eoDecode c = .truncated) :
    headerInt (s.readTo es c) = .error .malformedHeader := by
  have h : (s.readTo es c).eoDecode (s.readTo es c).cur = .truncated := h
  rw [headerInt, h]

theorem headerInt_of_boundsExceeded (h : s.eoDecode c = .boundsExceeded) :
    headerInt (s.readTo es c) = .error .boundsExceeded := by
  have h : (s.readTo es c).eoDecode (s.readTo es c).cur = .boundsExceeded := h
  rw [headerInt, h]

theorem ctOf_append_singleton (es : List (Nat × Bits)) (e : Nat × Bits) :
    ctOf (es ++ [e]) = Mem.write (ctOf es) e.1 (CtCell.ofCw e.2) := by
  rw [ctOf, ctOf, List.foldl_append]
  rfl

/-- An entry is a duplicate exactly when an earlier one of this header named its symbol. -/
theorem isSome_ctEntry_readTo (h : (es.map Prod.fst).Nodup) (k : Nat) :
    ((s.readTo es c).ctEntry k).isSome = true ↔ k ∈ es.map Prod.fst := by
  show (Mem.read (ctOf es) k).isSome = true ↔ _
  rw [read_ctOf h, Option.isSome_map, isSome_tableLookup]

/-! ## The codeword of an entry -/

theorem desCodeword_of_ibufHolds {k : Nat} {cw : Bits} (hcw : cw.length ≤ Config.cwMax) (h : s.IbufHolds c cw) :
    desCodeword (s.readTo es c) k cw.length = .ok (s.readTo (es ++ [(k, cw)]) (c + cw.length)) := by
  obtain ⟨hread, hend⟩ := h
  have havail : (s.readTo es c).avail (s.readTo es c).cur cw.length = true := avail_iff.2 hend
  have hread : (s.readTo es c).inSeq (s.readTo es c).cur cw.length = cw := hread
  rw [desCodeword, if_neg (by omega), havail, hread]
  rw [State.readTo, State.readTo, ctOf_append_singleton]
  rfl

theorem desCodeword_of_long {k l : Nat} (hl : Config.cwMax < l) :
    desCodeword (s.readTo es c) k l = .error .capacityExceeded := if_pos hl

theorem desCodeword_of_cutOff {k l : Nat} (hl : l ≤ Config.cwMax) (hend : s.inlen < c + l) :
    desCodeword (s.readTo es c) k l = .error .malformedHeader := by
  have havail : (s.readTo es c).avail (s.readTo es c).cur l = false := decide_eq_false (by simpa using hend)
  rw [desCodeword, if_neg (by omega), if_pos havail]

/-! ## The symbol of an entry -/

theorem desEntry_of_short (h : s.inlen < c + Config.symw) : desEntry (s.readTo es c) = .error .malformedHeader := by
  have havail : (s.readTo es c).avail (s.readTo es c).cur Config.symw = false := decide_eq_false (by simpa using h)
  rw [desEntry, if_pos havail]

section
variable {v : Nat} (hv : v < 2 ^ Config.symw) (hsym : s.IbufHolds c (binN Config.symw v))
include hv hsym

/-- Where the code of a symbol stands, an entry is refused for that symbol or goes on with its length. -/
theorem desEntry_eq (hnodup : (es.map Prod.fst).Nodup) :
    desEntry (s.readTo es c) =
      if s.par.symOk v = false ∨ v - s.par.symMin ∈ es.map Prod.fst then .error .malformedHeader
      else headerInt (s.readTo es (c + Config.symw)) >>= fun r => desCodeword r.2 (v - s.par.symMin) r.1 := by
  have havail : (s.readTo es c).avail (s.readTo es c).cur Config.symw = true :=
    avail_iff.2 (by simpa using hsym.2)
  have hbits : (s.readTo es c).inBits (s.readTo es c).cur Config.symw = v := State.inBits_of_binN hv hsym
  have hpar : (s.readTo es c).par = s.par := rfl
  have hcur : (s.readTo es c).setCur ((s.readTo es c).cur + Config.symw) = s.readTo es (c + Config.symw) := rfl
  have hdup := isSome_ctEntry_readTo (s := s) (c := c + Config.symw) hnodup (v - s.par.symMin)
  rw [desEntry, havail, hbits, hpar, hcur]
  dsimp only
  rw [if_neg (by simp)]
  by_cases hok : s.par.symOk v = false
  · rw [if_pos hok, if_pos (.inl hok)]
  by_cases hmem : v - s.par.symMin ∈ es.map Prod.fst
  · rw [if_neg hok, if_pos (hdup.2 hmem), if_pos (.inr hmem)]
  rw [if_neg hok, if_neg (mt hdup.1 hmem), if_neg (not_or.2 ⟨hok, hmem⟩)]
  cases headerInt (s.readTo es (c + Config.symw)) <;> rfl

theorem desEntry_of_bad_symbol (hnodup : (es.map Prod.fst).Nodup)
    (hbad : s.par.symOk v = false ∨ v - s.par.symMin ∈ es.map Prod.fst) :
    desEntry (s.readTo es c) = .error .malformedHeader := by
  rw [desEntry_eq hv hsym hnodup, if_pos hbad]

section
variable (hnodup : (es.map Prod.fst).Nodup) (hok : s.par.symOk v = true) (hnew : v - s.par.symMin ∉ es.map Prod.fst)
include hnodup hok hnew

theorem desEntry_of_new_symbol : desEntry (s.readTo es c) =
    headerInt (s.readTo es (c + Config.symw)) >>= fun r => desCodeword r.2 (v - s.par.symMin) r.1 := by
  rw [desEntry_eq hv hsym hnodup, if_neg (by simp [hok, hnew])]

theorem desEntry_of_length {l k : Nat} (hl : s.eoDecode (c + Config.symw) = .value l k) :
    desEntry (s.readTo es c) = desCodeword (s.readTo es (c + Config.symw + k)) (v - s.par.symMin) l := by
  rw [desEntry_of_new_symbol hv hsym hnodup hok hnew, headerInt_of_value hl]
  rfl

theorem desEntry_of_truncated (hl : s.eoDecode (c + Config.symw) = .truncated) :
    desEntry (s.readTo es c) = .error .malformedHeader := by
  rw [desEntry_of_new_symbol hv hsym hnodup hok hnew, headerInt_of_truncated hl]
  rfl

theorem desEntry_of_boundsExceeded (hl : s.eoDecode (c + Config.symw) = .boundsExceeded) :
    desEntry (s.readTo es c) = .error .boundsExceeded := by
  rw [desEntry_of_new_symbol hv hsym hnodup hok hnew, headerInt_of_boundsExceeded hl]
  rfl

end
end

/-! ## The loop over the entries -/

section
variable (hpar : s.par.wf = true)
include hpar

/-- Where format ENTRY stands with a new symbol, the entry is written (R103, R195). -/
theorem desEntry_of_entryBits {e : Nat × Bits} (hes : EntriesWf (es ++ [e]))
    (h : s.IbufHolds c (entryBits s.par.symMin e)) :
    desEntry (s.readTo es c) = .ok (s.readTo (es ++ [e]) (c + (entryBits s.par.symMin e).length)) := by
  obtain ⟨k, cw⟩ := e
  obtain ⟨hnodup, hbounds⟩ := hes
  obtain ⟨hk, hpos, hmax⟩ := hbounds (k, cw) (by simp)
  obtain ⟨hok, hv⟩ := symOk_of_entry hpar hk
  rw [List.map_append, List.map_singleton] at hnodup
  have hnew : k ∉ es.map Prod.fst := fun hmem => List.disjoint_of_nodup_append hnodup hmem (List.mem_singleton.2 rfl)
  have hindex : s.par.symMin + k - s.par.symMin = k := Nat.add_sub_cancel_left ..
  rw [entryBits] at h ⊢
  obtain ⟨hfields, hcw⟩ := State.ibufHolds_append h
  obtain ⟨hsym, hlength⟩ := State.ibufHolds_append hfields
  rw [length_binN] at hlength
  rw [List.length_append, length_binN] at hcw
  have hshort : cw.length < 2 ^ s.par.eoMaxGroup :=
    lt_two_pow_eoMaxGroup hpar (hmax.trans_lt (show Config.cwMax < 128 by decide))
  rw [desEntry_of_length hv hsym hnodup.of_append_left hok (by rwa [hindex]) (State.eoDecode_of_eoCode hpos hshort hlength),
    hindex, Nat.add_assoc, desCodeword_of_ibufHolds hmax hcw]
  simp [Nat.add_assoc]

/-- Where entries stand one after the other, the loop reads and writes them in turn. -/
theorem desEntries_of_entryBits {new : List (Nat × Bits)} (n : Nat) (hes : EntriesWf (es ++ new))
    (h : s.IbufHolds c (new.flatMap (entryBits s.par.symMin))) :
    desEntries (new.length + n) (s.readTo es c) =
      desEntries n (s.readTo (es ++ new) (c + (new.flatMap (entryBits s.par.symMin)).length)) := by
  induction new generalizing es c with
  | nil => simp
  | cons e new ih =>
    rw [List.append_cons] at hes ⊢
    rw [List.flatMap_cons] at h ⊢
    obtain ⟨hentry, hrest⟩ := State.ibufHolds_append h
    have hesEntry : EntriesWf (es ++ [e]) := by
      obtain ⟨hnodup, hbounds⟩ := hes
      rw [List.map_append] at hnodup
      exact ⟨hnodup.of_append_left, fun x hx => hbounds x (List.mem_append_left _ hx)⟩
    rw [List.length_cons, Nat.add_right_comm, desEntries, desEntry_of_entryBits hpar hesEntry hentry]
    dsimp only
    rw [ih hes hrest, List.length_append, Nat.add_assoc c]

end
end

/-! ## The whole header -/

theorem hdrDesBody_of_error {s : State} {k : ErrKind} (h : hdrDes s s.pos = .error k) : hdrDesBody s = .error k := by
  rw [hdrDesBody, h]

/-- `HdrDes` reads the count from an empty table, and then that many entries (R195). -/
theorem hdrDes_eq_bind (s : State) (p : Nat) :
    hdrDes s p = headerInt (s.readTo [] p) >>= fun r => desEntries r.1 r.2 := by
  show hdrDes s p = headerInt ((s.replaceCt []).setCur p) >>= fun r => desEntries r.1 r.2
  rw [hdrDes]
  cases headerInt ((s.replaceCt []).setCur p) <;> rfl

/-- A count that is not read ends the operation (R195). -/
theorem hdrDes_of_headerInt_error {s : State} {p : Nat} {k : ErrKind} (h : headerInt (s.readTo [] p) = .error k) :
    hdrDes s p = .error k := by
  rw [hdrDes_eq_bind, h]
  rfl

section
variable {s : State} {es : List (Nat × Bits)} {n : Nat}

/-- After a count and entries the loop stands behind them, with the entries still to come. -/
theorem hdrDes_of_entryBits {m : Nat} (hpar : s.par.wf = true) (hes : EntriesWf es) (hcount : n = es.length + m)
    (hn : 1 ≤ n) (hbound : n < 2 ^ s.par.eoMaxGroup)
    (h : s.IbufHolds s.pos (eoCode n ++ es.flatMap (entryBits s.par.symMin))) :
    hdrDes s s.pos =
      desEntries m (s.readTo es (s.pos + (eoCode n ++ es.flatMap (entryBits s.par.symMin)).length)) := by
  subst hcount
  obtain ⟨hcode, hentries⟩ := State.ibufHolds_append h
  have hloop := desEntries_of_entryBits (es := []) hpar m hes hentries
  rw [List.nil_append] at hloop
  rw [hdrDes_eq_bind, headerInt_of_value (State.eoDecode_of_eoCode hn hbound hcode), List.length_append, ← Nat.add_assoc,
    ← hloop]
  rfl

/-- Behind a count and fewer entries than it declares, a bad entry ends the operation with its kind. -/
theorem hdrDesBody_of_bad_entry {k : ErrKind} (hpar : s.par.wf = true) (hes : EntriesWf es) (hn : es.length < n)
    (hbound : n < 2 ^ s.par.eoMaxGroup) (h : s.IbufHolds s.pos (eoCode n ++ es.flatMap (entryBits s.par.symMin)))
    (hentry : desEntry (s.readTo es (s.pos + (eoCode n ++ es.flatMap (entryBits s.par.symMin)).length)) = .error k) :
    hdrDesBody s = .error k := by
  have hcount : n = es.length + (n - es.length - 1 + 1) := by omega
  refine hdrDesBody_of_error ?_
  rw [hdrDes_of_entryBits hpar hes hcount (by omega) hbound h, desEntries, hentry]

/-- Where a whole header stands, its table and its length are read (R195). -/
theorem hdrDesBody_of_headerBits (hpar : s.par.wf = true) (hes : TableWf es)
    (h : s.IbufHolds s.pos (headerBits s.par.symMin es)) :
    hdrDesBody s = .ok ((s.readTo es (s.pos + (headerBits s.par.symMin es).length)).setNbits
      (headerBits s.par.symMin es).length) := by
  obtain ⟨hne, hnodup, hbounds⟩ := hes
  have hle : es.length ≤ 95 := length_le_nsym hnodup fun e he => (hbounds e he).1
  have hbound : es.length < 2 ^ s.par.eoMaxGroup := lt_two_pow_eoMaxGroup hpar (by omega)
  have hread := hdrDes_of_entryBits (m := 0) hpar ⟨hnodup, hbounds⟩ rfl (List.length_pos_iff.2 hne) hbound h
  rw [hdrDesBody, hread, desEntries, headerBits]
  simp

end

/-! ## HDR_DES -/

theorem exec_hdrDes (s : State) : exec .hdrDes s = issue s.inlenLegal hdrDesBody s := rfl

/-- Settles O40: the count and the entries are read in turn; what HDR_DES leaves unchanged is its row of the access
table. -/
theorem hdrDesReadsTheHeaderAtPos : Obligations.HdrDesReadsTheHeaderAtPos := by
  intro s es hs hpar hinlen hes hholds
  have hrun := issue_of_body_ok hs (decide_eq_true hinlen) (hdrDesBody_of_headerBits hpar hes hholds)
  rw [← State.inlenLegal, ← exec_hdrDes] at hrun
  obtain ⟨hinputs, houtside, -, hval, hobuf, hout, -, hnew⟩ :=
    exec_leavesUnmarked (i := .hdrDes) (by decide) hs hrun rfl
  obtain ⟨holen, hobuf⟩ := hobuf (by decide)
  obtain ⟨houtlen, hout⟩ := hout (by decide)
  exact ⟨_, hrun, State.complete_done _, read_ctOf hes.2.1, rfl, hinputs, houtside, hnew (by decide), hval (by decide),
    holen, hobuf, houtlen, hout⟩

/-- An entry cut off by the end of the data is MalformedHeader, wherever it ends (R195, R271, R274). -/
theorem desEntry_of_cutOffEntry {s : State} {es : List (Nat × Bits)} {c : Nat} {x : Bits} (hpar : s.par.wf = true)
    (hnodup : (es.map Prod.fst).Nodup) (hcut : CutOffEntry s.par es x) (hread : s.inSeq c x.length = x)
    (hend : s.inlen = c + x.length) : desEntry (s.readTo es c) = .error .malformedHeader := by
  obtain hshort | ⟨k, y, hk, hnew, rfl, htail⟩ := hcut
  · exact desEntry_of_short (by omega)
  obtain ⟨hok, hv⟩ := symOk_of_entry hpar hk
  have hsymbol : binN Config.symw (s.par.symMin + k) ≠ [] := List.ne_nil_of_length_pos (by simp)
  obtain ⟨hsym, hreadTail, hendTail⟩ := State.ibufEnds_append hsymbol ⟨hread, .inl hend⟩
  rw [length_binN] at hreadTail hendTail
  have hindex : s.par.symMin + k - s.par.symMin = k := Nat.add_sub_cancel_left ..
  rw [← hindex] at hnew
  obtain hcode | ⟨l, z, hl, hmax, hz, rfl⟩ := htail
  · exact desEntry_of_truncated hv hsym hnodup hok hnew (State.eoDecode_of_ibufEnds hcode ⟨hreadTail, .inl hendTail⟩)
  · have hne : eoCode l ≠ [] := List.ne_nil_of_length_pos (eoLen_pos l)
    obtain ⟨hlength, -, hendz⟩ := State.ibufEnds_append hne ⟨hreadTail, .inl hendTail⟩
    have hbound : l < 2 ^ s.par.eoMaxGroup :=
      lt_two_pow_eoMaxGroup hpar (hmax.trans_lt (show Config.cwMax < 128 by decide))
    rw [desEntry_of_length hv hsym hnodup hok hnew (State.eoDecode_of_eoCode hl hbound hlength)]
    exact desCodeword_of_cutOff hmax (by omega)

/-- Settles O41: the data ends in the count, or in the entry after those read. -/
theorem hdrDesOfACutOffHeaderIsMalformedHeader : Obligations.HdrDesOfACutOffHeaderIsMalformedHeader := by
  intro s hs hpar hinlen
  have hlegal : s.inlenLegal = true := decide_eq_true hinlen
  rw [exec_hdrDes]
  refine ⟨fun b hcut hends => issue_of_body_error hs hlegal ?_,
    fun es n x hes hn hbound hcut hends => issue_of_body_error hs hlegal ?_⟩
  · exact hdrDesBody_of_error (hdrDes_of_headerInt_error (headerInt_of_truncated (State.eoDecode_of_ibufEnds hcut hends)))
  · have hwf := entriesWf_of_tableWf hes
    have hne : eoCode n ++ es.flatMap (entryBits s.par.symMin) ≠ [] :=
      List.append_ne_nil_of_left_ne_nil (List.ne_nil_of_length_pos (eoLen_pos n)) _
    obtain ⟨hholds, hread, hend⟩ := State.ibufEnds_append hne hends
    exact hdrDesBody_of_bad_entry hpar hwf hn hbound hholds (desEntry_of_cutOffEntry hpar hwf.1 hcut hread hend)

/-- Settles O42: the count or the entry after those read ends the operation with its kind. -/
theorem hdrDesFaultsOnABadEntry : Obligations.HdrDesFaultsOnABadEntry := by
  intro s es v n m hs hpar hinlen hes hn hbound hv
  have hlegal : s.inlenLegal = true := decide_eq_true hinlen
  have hwf := entriesWf_of_tableWf hes
  rw [exec_hdrDes]
  refine ⟨fun hm hholds => issue_of_body_error hs hlegal ?_, fun hbad hholds => issue_of_body_error hs hlegal ?_,
    fun hok hnew hlong hm hholds => issue_of_body_error hs hlegal ?_,
    fun hok hnew hm hholds => issue_of_body_error hs hlegal ?_⟩
  · exact hdrDesBody_of_error (hdrDes_of_headerInt_error
      (headerInt_of_boundsExceeded (State.eoDecode_of_lengthGroups hpar hm hholds)))
  · obtain ⟨hentries, hsym⟩ := State.ibufHolds_append hholds
    exact hdrDesBody_of_bad_entry hpar hwf hn hbound hentries
      (desEntry_of_bad_symbol hv hsym hwf.1 (hbad.imp_right And.right))
  · obtain ⟨hholds, hlength⟩ := State.ibufHolds_append hholds
    obtain ⟨hentries, hsym⟩ := State.ibufHolds_append hholds
    rw [List.length_append, length_binN, ← Nat.add_assoc] at hlength
    refine hdrDesBody_of_bad_entry hpar hwf hn hbound hentries ?_
    rw [desEntry_of_length hv hsym hwf.1 hok hnew (State.eoDecode_of_eoCode (by omega) hm hlength)]
    exact desCodeword_of_long hlong
  · obtain ⟨hholds, hlength⟩ := State.ibufHolds_append hholds
    obtain ⟨hentries, hsym⟩ := State.ibufHolds_append hholds
    rw [List.length_append, length_binN, ← Nat.add_assoc] at hlength
    exact hdrDesBody_of_bad_entry hpar hwf hn hbound hentries
      (desEntry_of_boundsExceeded hv hsym hwf.1 hok hnew (State.eoDecode_of_lengthGroups hpar hm hlength))

/-! ## Table recovery (R196) -/

/-- CT reads as a table in ascending code point (R190). -/
theorem ctTable_pairwise (s : State) : s.ctTable.Pairwise fun a b => a.1 < b.1 := by
  refine List.Pairwise.filterMap _ (fun j k hjk a ha b hb => ?_) List.pairwise_lt_range
  obtain ⟨_, -, rfl⟩ := Option.map_eq_some_iff.1 ha
  obtain ⟨_, -, rfl⟩ := Option.map_eq_some_iff.1 hb
  exact hjk

theorem ctTable_keys_nodup (s : State) : (s.ctTable.map Prod.fst).Nodup :=
  List.pairwise_map.2 ((ctTable_pairwise s).imp Nat.ne_of_lt)

/-- Where no LEN is above CW_MAX, every entry is representable (R46). -/
theorem ctTable_fits {s : State} (h : s.ctLegal = true) : ∀ e ∈ s.ctTable, e.1 < Config.nsym ∧ e.2.length ≤ Config.cwMax := by
  rintro ⟨k, cw⟩ hmem
  obtain ⟨hk, e, he, rfl⟩ := mem_ctTable.1 hmem
  have hlen := List.all_eq_true.1 h k (List.mem_range.2 hk)
  rw [he] at hlen
  exact ⟨hk, by simpa [length_cw] using hlen⟩

/-- CT into which another CT's table was written reads as that table, order included. -/
theorem TableIs.ctTable_eq {s u : State} (h : TableIs u s.ctTable) (hct : s.ctLegal = true) : u.ctTable = s.ctTable :=
  (h.ctTable_perm (ctTable_keys_nodup s) (ctTable_fits hct)).eq_of_pairwise
    (fun _ _ _ _ hab hba => absurd hab (Nat.lt_asymm hba)) (ctTable_pairwise u) (ctTable_pairwise s)

/-- What HDR_SER appended from OLEN = 0, found in another block's IBUF, is the header there. -/
theorem AppendedBits.ibufHolds {s t s' : State} {b : Bits} (h : AppendedBits s t b) (holen : s.olen = 0)
    (hend : s'.pos + t.olen ≤ s'.inlen) (hbits : ∀ i, i < t.olen → s'.inBit (s'.pos + i) = t.obufBit i) :
    s'.IbufHolds s'.pos b := by
  obtain ⟨hlen, hread, -⟩ := h
  rw [holen, Nat.zero_add] at hlen
  refine ⟨List.ext_getElem (length_inSeq ..) fun i hi hib => ?_, by omega⟩
  have hcell : Mem.read t.obuf i = some b[i] := by
    rw [← List.getElem?_eq_getElem hib, ← hread i hib, holen, Nat.zero_add]
  have hbit : s'.inBit (s'.pos + i) = b[i] := by
    rw [hbits i (by omega), State.obufBit, hcell]
    rfl
  exact (getElem_inSeq hi).trans hbit

/-- Settles O43: what HDR_SER accepts is a table that HDR_DES reads back from its header. -/
theorem headerRoundTripRecoversTheTable : Obligations.HeaderRoundTripRecoversTheTable := by
  intro s t s' hs _ holen hrun ht hs' hpar' hsymMin hinlen' hend hbits
  obtain ⟨hlegal, u, hbody, -⟩ := issue_ready_done hs hrun ht
  obtain ⟨holenLegal, hct⟩ := Bool.and_eq_true_iff.1 hlegal
  obtain ⟨hne, hcw⟩ := encodable_of_hdrSer_ok hbody
  have hpos : ∀ e ∈ s.ctTable, 1 ≤ e.2.length := fun e he => List.length_pos_iff.2 (hcw e he)
  have hwf : TableWf s.ctTable := ⟨hne, ctTable_keys_nodup s, fun e he =>
    ⟨(ctTable_fits hct e he).1, hpos e he, (ctTable_fits hct e he).2⟩⟩
  rw [hdrSer_eq_emit hne hcw] at hbody
  obtain ⟨hfits, -⟩ := emit_ok_iff.1 hbody
  obtain ⟨t', hrun', -, happended, -⟩ := (hdrSerAppendsTheHeader s hs hct hne hpos).1 hfits
  obtain rfl : t' = t := Host.Outcome.next.inj (hrun'.symm.trans hrun)
  have hholds := happended.ibufHolds holen hend hbits
  rw [← hsymMin] at hholds
  obtain ⟨v, hread, hdone, htable, hnbits, -⟩ := hdrDesReadsTheHeaderAtPos s' s.ctTable hs' hpar' hinlen' hwf hholds
  refine ⟨v, hread, hdone, htable.ctTable_eq hct, ?_⟩
  rw [hnbits, happended.1, holen, Nat.zero_add, hsymMin]

end Sys2Proof.Machine
end

section
/-! SUPPORT. The tokens LIT and MATCH (R220, R222): what each does with the operands read at the cursor, and the copy from
the output already there (R242, R243). -/

namespace Sys2Proof.Machine

theorem exec_litTok (s : State) : exec .litTok s = .next (settleToken s (litBody s)) := rfl

theorem exec_matchTok (s : State) : exec .matchTok s = .next (settleToken s (matchBody s)) := rfl

/-! ## How a token ends -/

theorem settleToken_faulted {s : State} {r : Except ErrKind State} {k : ErrKind} (h : r = .error k) :
    (settleToken s r).Faulted k := by
  subst h
  exact s.faultEntry_faulted k

/-- A token whose body ends with `u` answers it, STATUS untouched (R220, R222). -/
theorem exec_litTok_of_ok {s u : State} (h : litBody s = .ok u) : exec .litTok s = .next u := by
  rw [exec_litTok, h, settleToken]

theorem exec_matchTok_of_ok {s u : State} (h : matchBody s = .ok u) : exec .matchTok s = .next u := by
  rw [exec_matchTok, h, settleToken]

/-- A token whose body raises a kind enters FAULT with it (R281). -/
theorem exec_litTok_of_error {s : State} {k : ErrKind} (h : litBody s = .error k) :
    ∃ t, exec .litTok s = .next t ∧ t.Faulted k :=
  ⟨_, exec_litTok s, settleToken_faulted h⟩

theorem exec_matchTok_of_error {s : State} {k : ErrKind} (h : matchBody s = .error k) :
    ∃ t, exec .matchTok s = .next t ∧ t.Faulted k :=
  ⟨_, exec_matchTok s, settleToken_faulted h⟩

/-- STATUS, ERR, NBITS and the number of tokens left are not a token's to write (R220, R222). -/
theorem Expanded.keeps {s t : State} (h : Expanded s t) :
    t.status = s.status ∧ t.err = s.err ∧ t.tokLeft = s.tokLeft ∧ t.nbits = s.nbits := by
  obtain ⟨m, n, c, rfl, -⟩ := h
  exact ⟨rfl, rfl, rfl, rfl⟩

/-! ## LIT (R220, R221) -/

/-- The operand of a literal at `c`. -/
abbrev State.readLit (s : State) (c : Nat) : Except ErrKind (Sym × Nat) :=
  Sys2Proof.readLit s.par.symMin s.ctTable s.inBit s.inlen c

/-- LIT reads its operand and appends it (R220). -/
theorem litBody_eq_bind (s : State) : litBody s =
    s.readLit s.cur >>= fun r => symAppend s r.1 >>= fun t => .ok (t.setCur (s.cur + r.2)) := by
  rw [litBody, State.readLit]
  cases Sys2Proof.readLit s.par.symMin s.ctTable s.inBit s.inlen s.cur with
  | error x => rfl
  | ok r =>
    show _ = symAppend s r.1 >>= fun t => .ok (t.setCur (s.cur + r.2))
    dsimp only
    cases symAppend s r.1 <;> rfl

/-- No matching entry and several ones are the same fault (R220, R221). -/
theorem readLit_of_length_ne_one {symMin len cur : Nat} {table : List (Nat × Bits)} {bit : Nat → Bool}
    (h : (codewordMatches table bit len cur).length ≠ 1) :
    readLit symMin table bit len cur = .error .malformedToken := by
  rw [readLit]
  match hmatches : codewordMatches table bit len cur with
  | [] => rfl
  | [e] => exact absurd (by simp [hmatches]) h
  | _ :: _ :: _ => rfl

theorem State.readLit_of_unique {s : State} {c k : Nat} {cw : Bits}
    (h : codewordMatches s.ctTable s.inBit s.inlen c = [(k, cw)]) :
    s.readLit c = .ok (BitVec.ofNat 7 (s.par.symMin + k), cw.length) := by
  rw [State.readLit, Sys2Proof.readLit, h]

/-- Settles O51: the operand is the one match, and it is appended; what LIT leaves unchanged is its row of the access
table. -/
theorem litAppendsTheUniqueMatch : Obligations.LitAppendsTheUniqueMatch := by
  intro s k cw hunique hroom
  have hbody : litBody s = .ok ((s.pushOut (BitVec.ofNat 7 (s.par.symMin + k))).setCur (s.cur + cw.length)) := by
    rw [litBody_eq_bind, State.readLit_of_unique hunique]
    show symAppend s _ >>= _ = _
    rw [symAppend_ok_iff.2 ⟨hroom, rfl⟩]
    rfl
  obtain ⟨hinputs, houtside, -, hval, hobuf, -, hct, -⟩ :=
    expanded_leavesUnmarked (i := .litTok) (by decide) ((litBody_ends s).of_ok hbody)
  obtain ⟨holen, hobuf⟩ := hobuf (by decide)
  exact ⟨_, exec_litTok_of_ok hbody, rfl, rfl, rfl, rfl, rfl, Mem.read_write_same ..,
    fun a ha => Mem.read_write_of_ne _ _ _ _ ha, hinputs, houtside, rfl, hval (by decide), holen, hobuf, hct (by decide)⟩

/-- Settles O52: the operand is not read, or there is no cell for it. -/
theorem litFaultsWithoutAUniqueMatch : Obligations.LitFaultsWithoutAUniqueMatch := by
  intro s
  refine ⟨fun hmany => exec_litTok_of_error ?_, fun hone hfull => exec_litTok_of_error ?_⟩
  · rw [litBody_eq_bind, State.readLit, readLit_of_length_ne_one hmany]
    rfl
  · obtain ⟨⟨k, cw⟩, hunique⟩ := List.length_eq_one_iff.1 hone
    rw [litBody_eq_bind, State.readLit_of_unique hunique]
    show symAppend s _ >>= _ = _
    rw [symAppend_error_iff.2 ⟨hfull, rfl⟩]
    rfl

/-! ## The operands of MATCH (R222) -/

/-- The operands of a match at `c`. -/
abbrev State.readMatch (s : State) (c : Nat) : Except ErrKind (Nat × Nat × Nat) :=
  Sys2Proof.readMatch s.par.eoMaxGroup s.inBit s.inlen c

/-- One integer of a match at `c`. -/
abbrev State.readMatchInt (s : State) (c : Nat) : Except ErrKind (Nat × Nat) :=
  Sys2Proof.readMatchInt s.par.eoMaxGroup s.inBit s.inlen c

/-- The offset is read, and then the length (R222). -/
theorem State.readMatch_eq_bind (s : State) (c : Nat) : s.readMatch c =
    s.readMatchInt c >>= fun o => s.readMatchInt (c + o.2) >>= fun l => .ok (o.1, l.1, o.2 + l.2) := by
  unfold State.readMatch State.readMatchInt Sys2Proof.readMatch
  cases Sys2Proof.readMatchInt s.par.eoMaxGroup s.inBit s.inlen c with
  | error x => rfl
  | ok o =>
    show _ = Sys2Proof.readMatchInt s.par.eoMaxGroup s.inBit s.inlen (c + o.2) >>= fun l => .ok (o.1, l.1, o.2 + l.2)
    dsimp only
    cases Sys2Proof.readMatchInt s.par.eoMaxGroup s.inBit s.inlen (c + o.2) <;> rfl

section
variable {s : State} {c : Nat}

/-- Where a code is cut off, the integer is MalformedToken (R274). -/
theorem State.readMatchInt_of_ibufEnds {b : Bits} (hcut : CutOffCode s.par.eoMaxGroup b) (h : s.IbufEnds c b) :
    s.readMatchInt c = .error .malformedToken := by
  have hdecode : Sys2Proof.eoDecode s.par.eoMaxGroup s.inBit s.inlen c = .truncated := State.eoDecode_of_ibufEnds hcut h
  rw [State.readMatchInt, Sys2Proof.readMatchInt, hdecode]

/-- Where the length groups of an integer beyond the bound stand, the integer is BoundsExceeded (R275). -/
theorem State.readMatchInt_of_lengthGroups {m : Nat} (hpar : s.par.wf = true) (hm : 2 ^ s.par.eoMaxGroup ≤ m)
    (h : s.IbufHolds c (lengthGroups m)) : s.readMatchInt c = .error .boundsExceeded := by
  have hdecode : Sys2Proof.eoDecode s.par.eoMaxGroup s.inBit s.inlen c = .boundsExceeded :=
    State.eoDecode_of_lengthGroups hpar hm h
  rw [State.readMatchInt, Sys2Proof.readMatchInt, hdecode]

/-- An offset that is not read is the match's fault. -/
theorem State.readMatch_of_offset_error {k : ErrKind} (h : s.readMatchInt c = .error k) : s.readMatch c = .error k := by
  rw [State.readMatch_eq_bind, h]
  rfl

/-- After an offset's code, a length that is not read is the match's fault. -/
theorem State.readMatch_of_length_error {o : Nat} {k : ErrKind} (ho : 1 ≤ o) (hbound : o < 2 ^ s.par.eoMaxGroup)
    (hoffset : s.IbufHolds c (eoCode o)) (h : s.readMatchInt (c + (eoCode o).length) = .error k) :
    s.readMatch c = .error k := by
  rw [State.readMatch_eq_bind, State.readMatchInt, readMatchInt_eoCode ho hbound hoffset.1 hoffset.2]
  show s.readMatchInt (c + (eoCode o).length) >>= _ = _
  rw [h]
  rfl

/-- A match cut off in its offset or in its length is MalformedToken (R222, R272). -/
theorem State.readMatch_of_cutOff {o : Nat} {b : Bits} (ho : 1 ≤ o) (hbound : o < 2 ^ s.par.eoMaxGroup)
    (hcut : CutOffCode s.par.eoMaxGroup b) (h : s.IbufEnds c b ∨ s.IbufEnds c (eoCode o ++ b)) :
    s.readMatch c = .error .malformedToken := by
  obtain h | h := h
  · exact State.readMatch_of_offset_error (State.readMatchInt_of_ibufEnds hcut h)
  · obtain ⟨hoffset, hread, hend⟩ := State.ibufEnds_append (List.ne_nil_of_length_pos (eoLen_pos o)) h
    exact State.readMatch_of_length_error ho hbound hoffset
      (State.readMatchInt_of_ibufEnds hcut ⟨hread, .inl hend⟩)

/-- An over-long group in the offset or in the length is BoundsExceeded (R222, R275). -/
theorem State.readMatch_of_overlong {o m : Nat} (hpar : s.par.wf = true) (ho : 1 ≤ o) (hbound : o < 2 ^ s.par.eoMaxGroup)
    (hm : 2 ^ s.par.eoMaxGroup ≤ m)
    (h : s.IbufHolds c (lengthGroups m) ∨ s.IbufHolds c (eoCode o ++ lengthGroups m)) :
    s.readMatch c = .error .boundsExceeded := by
  obtain h | h := h
  · exact State.readMatch_of_offset_error (State.readMatchInt_of_lengthGroups hpar hm h)
  · obtain ⟨hoffset, hlength⟩ := State.ibufHolds_append h
    exact State.readMatch_of_length_error ho hbound hoffset (State.readMatchInt_of_lengthGroups hpar hm hlength)

end

/-! ## MATCH (R222, R242) -/

/-- MATCH reads its operands and copies (R222). -/
theorem matchBody_eq_bind (s : State) : matchBody s =
    s.readMatch s.cur >>= fun r => copyBack s r.1 r.2.1 >>= fun t => .ok (t.setCur (s.cur + r.2.2)) := by
  rw [matchBody, State.readMatch]
  cases Sys2Proof.readMatch s.par.eoMaxGroup s.inBit s.inlen s.cur with
  | error x => rfl
  | ok r =>
    show _ = copyBack s r.1 r.2.1 >>= fun t => .ok (t.setCur (s.cur + r.2.2))
    dsimp only
    cases copyBack s r.1 r.2.1 <;> rfl

theorem matchBody_of_readMatch_error {s : State} {k : ErrKind} (h : s.readMatch s.cur = .error k) :
    matchBody s = .error k := by
  rw [matchBody_eq_bind, h]
  rfl

/-- Where both codes stand at the cursor, MATCH is the copy they name (R222, R242). -/
theorem matchBody_of_codes {s : State} {o l : Nat} (ho : 1 ≤ o) (hobound : o < 2 ^ s.par.eoMaxGroup) (hl : 1 ≤ l)
    (hlbound : l < 2 ^ s.par.eoMaxGroup) (h : s.IbufHolds s.cur (eoCode o ++ eoCode l)) :
    matchBody s = copyBack s o l >>= fun t => .ok (t.setCur (s.cur + (eoCode o ++ eoCode l).length)) := by
  rw [matchBody_eq_bind, State.readMatch, readMatch_eoCode ho hobound hl hlbound h.1 h.2]
  rfl

/-- The copy repeats the last `o` symbols periodically (R243): each load sees the stores before it, so the symbol loaded in
round j + o is the one stored in round j. -/
theorem read_copyLoop_periodic {n o : Nat} {s : State} (ho : 1 ≤ o) (hout : o ≤ s.outlen) {j : Nat} (hj : j < n) :
    Mem.read (copyLoop n (s.outlen - o) s).out (s.outlen + j) = some (s.outCell (s.outlen - o + j % o)) := by
  induction n generalizing s j with
  | zero => exact absurd hj (Nat.not_lt_zero j)
  | succ n ih =>
    rw [copyLoop]
    cases j with
    | zero =>
      rw [copyLoop_read_outside _ _ _ _ (.inl (Nat.lt_succ_self _))]
      simp
    | succ j =>
      have hnext : (s.pushOut (s.outCell (s.outlen - o))).outlen - o = s.outlen - o + 1 := by
        rw [State.pushOut_outlen]
        omega
      have hcell := ih (s := s.pushOut (s.outCell (s.outlen - o))) (hout.trans (Nat.le_succ _))
        (Nat.lt_of_succ_lt_succ hj)
      rw [hnext, State.pushOut_outlen, Nat.add_right_comm, Nat.add_assoc s.outlen] at hcell
      rw [hcell, State.outCell, State.pushOut_out, Mem.read_write, State.pushOut_epoch]
      have hlt : j % o < o := Nat.mod_lt j ho
      have hmod : (j + 1) % o = (j % o + 1) % o := (Nat.mod_add_mod j o 1).symm
      by_cases hwrap : j % o + 1 = o
      · rw [if_pos (by omega), hmod, hwrap, Nat.mod_self]
        rfl
      · rw [if_neg (by omega), hmod, Nat.mod_eq_of_lt (show j % o + 1 < o by omega), Nat.add_assoc, Nat.add_comm 1]
        rfl

/-- Settles O53: the operands are the two codes, and the copy is `read_copyLoop_periodic`; what MATCH leaves unchanged is
its row of the access table. -/
theorem matchCopiesPeriodically : Obligations.MatchCopiesPeriodically := by
  intro s o l _ ho hobound hl hlbound hholds hout hroom
  have hbody : matchBody s = .ok ((copyLoop l (s.outlen - o) s).setCur (s.cur + (eoCode o ++ eoCode l).length)) := by
    rw [matchBody_of_codes ho hobound hl hlbound hholds, copyBack_ok_iff.2 ⟨hout, hroom, rfl⟩]
    rfl
  have hexp := (matchBody_ends s).of_ok hbody
  obtain ⟨hinputs, houtside, -, hval, hobuf, -, hct, -⟩ := expanded_leavesUnmarked (i := .matchTok) (by decide) hexp
  obtain ⟨holen, hobuf⟩ := hobuf (by decide)
  obtain ⟨hstatus, herr, hleft, hnbits⟩ := hexp.keeps
  have houtlen := congrArg State.outlen (copyLoop_frame l (s.outlen - o) s)
  have hcur : s.cur + (eoCode o ++ eoCode l).length = s.cur + eoLen o + eoLen l := by
    rw [List.length_append, ← Nat.add_assoc, eoLen, eoLen]
  exact ⟨_, exec_matchTok_of_ok hbody, hstatus, herr, hleft, hcur, houtlen, fun j => read_copyLoop_periodic ho hout,
    copyLoop_read_outside _ _ _, hinputs, houtside, hnbits, hval (by decide), holen, hobuf, hct (by decide)⟩

/-- Settles O54: the operands are read and the copy is refused, or one of them is not read. -/
theorem matchFaultsOnBadOperands : Obligations.MatchFaultsOnBadOperands := by
  intro s o l hpar ho hobound hl hlbound
  refine ⟨fun hholds hfar => exec_matchTok_of_error ?_, fun hholds hnear hfull => exec_matchTok_of_error ?_,
    fun b hcut hends => exec_matchTok_of_error (matchBody_of_readMatch_error ?_),
    fun m hm hholds => exec_matchTok_of_error (matchBody_of_readMatch_error ?_)⟩
  · rw [matchBody_of_codes ho hobound hl hlbound hholds, copyBack_error_iff.2 (.inl ⟨hfar, rfl⟩)]
    rfl
  · rw [matchBody_of_codes ho hobound hl hlbound hholds, copyBack_error_iff.2 (.inr ⟨hnear, hfull, rfl⟩)]
    rfl
  · exact State.readMatch_of_cutOff ho hobound hcut hends
  · exact State.readMatch_of_overlong hpar ho hobound hm hholds

end Sys2Proof.Machine
end

section
/-! SUPPORT. The expansion of a token list (R210): how long it is, and that OUT holds it as the tokens are carried out. -/

namespace Sys2Proof

/-- The number of symbols a token adds to the output (R210). -/
def Token.size : Token → Nat
  | .lit _ => 1
  | .mtch _ l => l

namespace Machine

/-! ## The expansion of a list in parts -/

theorem length_copySyms (n o : Nat) (out : List Sym) : (copySyms n o out).length = out.length + n := by
  induction n generalizing out with
  | zero => rfl
  | succ n ih =>
    rw [copySyms, ih, List.length_append, List.length_singleton]
    omega

theorem expandFrom_append (out : List Sym) (a b : List Token) :
    expandFrom out (a ++ b) = (expandFrom out a).bind fun out' => expandFrom out' b := by
  induction a generalizing out with
  | nil => rfl
  | cons tok a ih =>
    cases tok with
    | lit v => exact ih _
    | mtch o l =>
      simp only [List.cons_append, expandFrom]
      split_ifs
      · rfl
      · exact ih _

theorem expandFrom_cons_eq_some {out syms : List Sym} {tok : Token} {ts : List Token}
    (h : expandFrom out (tok :: ts) = some syms) :
    ∃ out', expandFrom out [tok] = some out' ∧ expandFrom out' ts = some syms :=
  Option.bind_eq_some_iff.1 ((expandFrom_append out [tok] ts).symm.trans h)

/-- A literal always expands, and a match whose offset lies within the output (R210). -/
theorem expandFrom_singleton_eq_some_iff {out out' : List Sym} {tok : Token} : expandFrom out [tok] = some out' ↔
    (∃ v, tok = .lit v ∧ out' = out ++ [v]) ∨
      ∃ o l, tok = .mtch o l ∧ 1 ≤ o ∧ o ≤ out.length ∧ out' = copySyms l o out := by
  cases tok with
  | lit v => simp [expandFrom, eq_comm]
  | mtch o l =>
    rw [expandFrom, expandFrom]
    split_ifs with hbad
    · refine iff_of_false (by simp) ?_
      rintro (⟨v, h, -⟩ | ⟨o', l', h, ho, hreach, -⟩) <;> cases h
      omega
    · constructor
      · intro h
        exact .inr ⟨o, l, rfl, by omega, by omega, (Option.some.inj h).symm⟩
      · rintro (⟨v, h, -⟩ | ⟨o', l', h, -, -, rfl⟩) <;> cases h
        rfl

theorem length_of_expandFrom {out syms : List Sym} {ts : List Token} (h : expandFrom out ts = some syms) :
    syms.length = out.length + (ts.map Token.size).sum := by
  induction ts generalizing out with
  | nil =>
    obtain rfl := Option.some.inj h
    rfl
  | cons tok ts ih =>
    obtain ⟨out', htok, hrest⟩ := expandFrom_cons_eq_some h
    rw [ih hrest, List.map_cons, List.sum_cons]
    obtain ⟨v, rfl, rfl⟩ | ⟨o, l, rfl, -, -, rfl⟩ := expandFrom_singleton_eq_some_iff.1 htok
    · rw [List.length_append, List.length_singleton, Token.size, Nat.add_assoc]
    · rw [length_copySyms, Token.size, Nat.add_assoc]

/-! ## The bits of a list in parts (R211) -/

theorem tokensBits_cons_eq_some {symMin : Nat} {table : List (Nat × Bits)} {tok : Token} {ts : List Token} {b : Bits}
    (h : tokensBits symMin table (tok :: ts) = some b) :
    ∃ b₁ b₂, encodeToken symMin table tok = some b₁ ∧ tokensBits symMin table ts = some b₂ ∧ b = b₁ ++ b₂ := by
  rw [tokensBits] at h
  split at h
  · next b₁ b₂ h₁ h₂ => exact ⟨b₁, b₂, h₁, h₂, (Option.some.inj h).symm⟩
  · cases h

/-! ## OUT holds the expansion -/

section
variable {s t : State} {out : List Sym}

theorem OutputIs.pushOut (h : OutputIs s t out) (v : Sym) : OutputIs s (t.pushOut v) (out ++ [v]) := by
  obtain ⟨hlen, hcells, hrest⟩ := h
  have hlength : (out ++ [v]).length = out.length + 1 := by simp
  refine ⟨by rw [State.pushOut_outlen, hlen, hlength], fun i hi => ?_, fun a ha => ?_⟩
  · rw [State.pushOut_out, Mem.read_write, hlen]
    split_ifs with hlast
    · simp [hlast]
    · rw [hcells i (by omega), List.getElem?_append_left (by omega)]
  · rw [State.pushOut_out, Mem.read_write_of_ne _ _ _ _ (by omega), hrest a (by omega)]

theorem OutputIs.outCell (h : OutputIs s t out) {i : Nat} (hi : i < out.length) : t.outCell i = out.getD i 0 := by
  obtain ⟨-, hcells, -⟩ := h
  rw [State.outCell, hcells i hi, List.getElem?_eq_getElem hi, List.getD_eq_getElem _ _ hi, Option.getD_some]

/-- Cell by cell the copy loop is the copy of R242. -/
theorem OutputIs.copyLoop {o : Nat} (h : OutputIs s t out) (ho : 1 ≤ o) (hout : o ≤ out.length) (n : Nat) :
    OutputIs s (copyLoop n (out.length - o) t) (copySyms n o out) := by
  induction n generalizing t out with
  | zero => exact h
  | succ n ih =>
    have hnext : (out ++ [out.getD (out.length - o) 0]).length - o = out.length - o + 1 := by
      rw [List.length_append, List.length_singleton]
      omega
    rw [Machine.copyLoop, copySyms, h.outCell (by omega), ← hnext]
    exact ih (h.pushOut _) (by rw [List.length_append]; omega)

end

end Machine
end Sys2Proof
end

section
/-! SUPPORT. TOK_DES (R218): a pass of its loop reads one token and carries it out, and where the tokens of a body stand
one after the other the passes give their expansion. -/

namespace Sys2Proof.Machine

/-! ## Carrying out a token -/

/-- What a token does to the output once it is read (R220, R222). -/
def State.applyToken (s : State) : Token → Except ErrKind State
  | .lit v => symAppend s v
  | .mtch o l => copyBack s o l

/-- The update `f` touches nothing that appending to the output reads or writes. -/
abbrev OutputBlind (f : State → State) : Prop :=
  ∀ s, (f s).par = s.par ∧ (f s).outlen = s.outlen ∧ (f s).outCell = s.outCell ∧ ∀ v, (f s).pushOut v = f (s.pushOut v)

theorem outputBlind_setCur (c : Nat) : OutputBlind fun s => s.setCur c := fun _ => ⟨rfl, rfl, rfl, fun _ => rfl⟩

section
variable {f : State → State} (hf : OutputBlind f)
include hf

theorem copyLoop_comm (n a : Nat) (s : State) : copyLoop n a (f s) = f (copyLoop n a s) := by
  induction n generalizing a s with
  | zero => rfl
  | succ n ih =>
    obtain ⟨-, -, hcell, hpush⟩ := hf s
    rw [copyLoop, copyLoop, hcell, hpush, ih]

theorem applyToken_comm (s : State) (tok : Token) : (f s).applyToken tok = s.applyToken tok >>= fun u => .ok (f u) := by
  obtain ⟨hpar, hlen, -, hpush⟩ := hf s
  cases tok with
  | lit v =>
    simp only [State.applyToken, symAppend, hpar, hlen, hpush]
    split_ifs <;> rfl
  | mtch o l =>
    simp only [State.applyToken, copyBack, hpar, hlen, copyLoop_comm hf]
    split_ifs <;> rfl

end

/-! ## A pass of the loop -/

/-- The whole token at `c` (R105, R106). -/
abbrev State.decodeToken (s : State) (c : Nat) : Except ErrKind (Token × Nat) :=
  Sys2Proof.decodeToken s.par.eoMaxGroup s.par.symMin s.ctTable s.inBit s.inlen c

/-- Everything reading a token can do: there is no flag, or the flag says which operands are read (R130). -/
theorem State.decodeToken_eq (s : State) (c : Nat) : s.decodeToken c =
    if s.avail c 1 = false then .error .malformedToken
    else if s.inBit c then s.readLit (c + 1) >>= fun r => .ok (.lit r.1, 1 + r.2)
    else s.readMatch (c + 1) >>= fun r => .ok (.mtch r.1 r.2.1, 1 + r.2.2) := by
  unfold State.decodeToken Sys2Proof.decodeToken State.readLit State.readMatch
  congr 1
  congr 1
  · cases Sys2Proof.readLit s.par.symMin s.ctTable s.inBit s.inlen (c + 1) <;> rfl
  · cases Sys2Proof.readMatch s.par.eoMaxGroup s.inBit s.inlen (c + 1) <;> rfl

/-- The cursor, which the flag moves on first, does not matter for what a token does. -/
theorem applyToken_after_flag (s : State) (tok : Token) (k : Nat) :
    ((s.setCur (s.cur + 1)).applyToken tok >>= fun t => .ok (t.setCur ((s.setCur (s.cur + 1)).cur + k))) =
      s.applyToken tok >>= fun t => .ok (t.setCur (s.cur + (1 + k))) := by
  rw [applyToken_comm (outputBlind_setCur (s.cur + 1)), bind_assoc, State.setCur_cur, Nat.add_assoc]
  rfl

/-- A pass reads a token and carries it out (R218). -/
theorem tokenPass_eq_bind (s : State) : tokenPass s =
    s.decodeToken s.cur >>= fun r => s.applyToken r.1 >>= fun t => .ok (t.setCur (s.cur + r.2)) := by
  rw [tokenPass, State.decodeToken_eq]
  split_ifs
  · rfl
  · rw [litBody_eq_bind]
    show s.readLit (s.cur + 1) >>= _ = _
    cases s.readLit (s.cur + 1) with
    | error x => rfl
    | ok r => exact applyToken_after_flag s (.lit r.1) _
  · rw [matchBody_eq_bind]
    show s.readMatch (s.cur + 1) >>= _ = _
    cases s.readMatch (s.cur + 1) with
    | error x => rfl
    | ok r => exact applyToken_after_flag s (.mtch r.1 r.2.1) _

/-! ## Tokens that are not read -/

section
variable {s : State} {c : Nat}

/-- A literal whose operand is not read is not read. -/
theorem State.decodeToken_of_readLit_error {y : Bits} {k : ErrKind} (h : s.IbufHolds c (true :: y))
    (hread : s.readLit (c + 1) = .error k) : s.decodeToken c = .error k := by
  obtain ⟨hbits, hend⟩ := h
  rw [List.length_cons] at hend
  have havail : s.avail c 1 = true := avail_iff.2 (by omega)
  rw [State.decodeToken_eq, if_neg (by simp [havail]), if_pos ((inSeq_cons_iff ..).1 hbits).1, hread]
  rfl

/-- A match whose operands are not read is not read. -/
theorem State.decodeToken_of_readMatch_error {y : Bits} {k : ErrKind} (h : s.IbufHolds c (false :: y))
    (hread : s.readMatch (c + 1) = .error k) : s.decodeToken c = .error k := by
  obtain ⟨hbits, hend⟩ := h
  rw [List.length_cons] at hend
  have havail : s.avail c 1 = true := avail_iff.2 (by omega)
  have hflag : s.inBit c = false := ((inSeq_cons_iff ..).1 hbits).1
  rw [State.decodeToken_eq, if_neg (by simp [havail]), if_neg (by simp [hflag]), hread]
  rfl

/-- Where the data ends in bits that begin with no codeword, no entry matches (R220). -/
theorem State.readLit_of_no_codeword {y : Bits} (hnone : ∀ e ∈ s.ctTable, ¬ e.2 <+: y) (hread : s.inSeq c y.length = y)
    (hend : s.inlen = c + y.length) : s.readLit c = .error .malformedToken := by
  have hmatches : codewordMatches s.ctTable s.inBit s.inlen c = [] := by
    refine List.eq_nil_iff_forall_not_mem.2 fun e he => ?_
    obtain ⟨hmem, hfits, hcw⟩ := mem_codewordMatches.1 he
    have hprefix := inSeq_prefix s.inBit c (show e.2.length ≤ y.length by omega)
    rw [hcw] at hprefix
    exact hnone e hmem (hread ▸ hprefix)
  exact readLit_of_length_ne_one (by simp [hmatches])

/-- A token cut off by the end of the data is MalformedToken, wherever it ends (R218, R220, R222, R272). -/
theorem State.decodeToken_of_cutOffToken {x : Bits} (hcut : CutOffToken s.par s.ctTable x)
    (hread : s.inSeq c x.length = x) (hend : s.inlen = c + x.length) : s.decodeToken c = .error .malformedToken := by
  have hholds : s.IbufHolds c x := ⟨hread, by omega⟩
  obtain rfl | ⟨y, rfl, hnone⟩ | ⟨y, rfl, hcode⟩ | ⟨o, y, ho, hbound, rfl, hcode⟩ := hcut
  · have havail : s.avail c 1 = false := decide_eq_false (by simpa using Nat.le_of_eq hend)
    rw [State.decodeToken_eq, if_pos havail]
  all_goals
    have hreadTail := ((inSeq_cons_iff ..).1 hread).2
    rw [List.length_cons, Nat.add_comm _ 1, ← Nat.add_assoc] at hend
  · exact State.decodeToken_of_readLit_error hholds (State.readLit_of_no_codeword hnone hreadTail hend)
  · exact State.decodeToken_of_readMatch_error hholds
      (State.readMatch_of_offset_error (State.readMatchInt_of_ibufEnds hcode ⟨hreadTail, .inl hend⟩))
  · exact State.decodeToken_of_readMatch_error hholds
      (State.readMatch_of_cutOff ho hbound hcode (.inr ⟨hreadTail, .inl hend⟩))

/-- A match with an over-long group is BoundsExceeded (R222, R275). -/
theorem State.decodeToken_of_overlong {m : Nat} (hpar : s.par.wf = true) (hm : 2 ^ s.par.eoMaxGroup ≤ m)
    (h : s.IbufHolds c (false :: lengthGroups m) ∨
      ∃ o, 1 ≤ o ∧ o < 2 ^ s.par.eoMaxGroup ∧ s.IbufHolds c (false :: (eoCode o ++ lengthGroups m))) :
    s.decodeToken c = .error .boundsExceeded := by
  obtain hholds | ⟨o, ho, hbound, hholds⟩ := h
  · obtain ⟨-, htail⟩ := State.ibufHolds_append (a := [false]) hholds
    exact State.decodeToken_of_readMatch_error hholds
      (State.readMatch_of_offset_error (State.readMatchInt_of_lengthGroups hpar hm htail))
  · obtain ⟨-, htail⟩ := State.ibufHolds_append (a := [false]) hholds
    exact State.decodeToken_of_readMatch_error hholds (State.readMatch_of_overlong hpar ho hbound hm (.inr htail))

end

/-! ## The passes over the tokens of a body -/

/-- `t` is `s` with the output `out` in OUT and the cursor at `c`, and otherwise as it was: the loop of R218 between two
tokens. -/
def Decoded (s t : State) (out : List Sym) (c : Nat) : Prop :=
  OutputIs s t out ∧ ∃ m n, t = ((s.setOut m).setOutlen n).setCur c

/-- The parameters agree on the group bound and on the symbol range, which is what the wire formats depend on. -/
abbrev SameFormat (p q : Params) : Prop := p.eoMaxGroup = q.eoMaxGroup ∧ p.symMin = q.symMin

section
variable {s t : State} {out : List Sym} {c : Nat}

/-- The output starts empty (R218). -/
theorem decoded_start (s : State) (c : Nat) : Decoded s ((s.setOutlen 0).setCur c) [] c :=
  ⟨⟨rfl, by simp, fun _ _ => rfl⟩, s.out, 0, rfl⟩

theorem Decoded.setCur (h : Decoded s t out c) (c' : Nat) : Decoded s (t.setCur c') out c' := by
  obtain ⟨hout, m, n, rfl⟩ := h
  exact ⟨hout, m, n, rfl⟩

theorem Decoded.cur_eq (h : Decoded s t out c) : t.cur = c := by
  obtain ⟨-, m, n, rfl⟩ := h
  rfl

/-- A token that expands within OUT is carried out, and OUT then holds the longer expansion (R210, R241, R242). -/
theorem Decoded.applyToken {out' : List Sym} {tok : Token} (h : Decoded s t out c)
    (hexp : expandFrom out [tok] = some out') (hfit : out'.length ≤ s.par.outMax) :
    ∃ u, t.applyToken tok = .ok u ∧ Decoded s u out' c := by
  obtain ⟨hout, m, n, ht⟩ := h
  have hlen : t.outlen = out.length := hout.1
  have hpar : t.par = s.par := by rw [ht]; rfl
  obtain ⟨v, rfl, rfl⟩ | ⟨o, l, rfl, ho, hreach, rfl⟩ := expandFrom_singleton_eq_some_iff.1 hexp
  · rw [List.length_append, List.length_singleton, ← hpar] at hfit
    refine ⟨_, symAppend_ok_iff.2 ⟨by omega, rfl⟩, hout.pushOut v, Mem.write t.out t.outlen v, t.outlen + 1, ?_⟩
    subst ht
    rfl
  · rw [length_copySyms, ← hpar] at hfit
    refine ⟨_, copyBack_ok_iff.2 ⟨by omega, by omega, rfl⟩, ?_, (copyLoop l (t.outlen - o) t).out, t.outlen + l, ?_⟩
    · rw [hlen]
      exact hout.copyLoop ho hreach l
    · rw [copyLoop_frame]
      subst ht
      rfl

section
variable {p : Params} (hp : p.wf = true) (hfmt : SameFormat s.par p) (hfree : PrefixFree s.ctTable)
include hp hfmt hfree

/-- Where a token's encoding stands, the token is read (R105, R106, R115). -/
theorem State.decodeToken_of_encodeToken {tok : Token} {b : Bits} (htok : tok.wf p = true)
    (henc : encodeToken p.symMin s.ctTable tok = some b) (hholds : s.IbufHolds c b) :
    s.decodeToken c = .ok (tok, b.length) := by
  obtain ⟨hgroup, hsym⟩ := hfmt
  rw [State.decodeToken, hgroup, hsym]
  exact tokenDecodingInvertsEncoding p s.ctTable tok b s.inBit s.inlen c hp (ctTable_keys_nodup s) hfree htok henc
    hholds.1 hholds.2

/-- Where a token's encoding stands at the cursor, the pass reads it and carries it out. -/
theorem Decoded.tokenPass {out' : List Sym} {tok : Token} {b : Bits} (h : Decoded s t out c) (htok : tok.wf p = true)
    (henc : encodeToken p.symMin s.ctTable tok = some b) (hexp : expandFrom out [tok] = some out')
    (hfit : out'.length ≤ s.par.outMax) (hholds : s.IbufHolds c b) :
    ∃ u, tokenPass t = .ok u ∧ Decoded s u out' (c + b.length) := by
  have hread : t.decodeToken t.cur = .ok (tok, b.length) := by
    rw [h.cur_eq, ← State.decodeToken_of_encodeToken hp hfmt hfree htok henc hholds]
    obtain ⟨-, m, n, rfl⟩ := h
    rfl
  obtain ⟨u, happly, hu⟩ := h.applyToken hexp hfit
  refine ⟨u.setCur (c + b.length), ?_, hu.setCur _⟩
  rw [tokenPass_eq_bind, hread, h.cur_eq]
  show t.applyToken tok >>= _ = _
  rw [happly]
  rfl

/-- Over the tokens of a body the loop comes to a state that holds their expansion, with its cursor behind them. -/
theorem Decoded.tokenLoop {ts : List Token} {syms : List Sym} {b : Bits} (h : Decoded s t out c)
    (hts : ∀ tok ∈ ts, tok.wf p = true) (henc : tokensBits p.symMin s.ctTable ts = some b)
    (hexp : expandFrom out ts = some syms) (hfit : syms.length ≤ s.par.outMax) (hholds : s.IbufHolds c b) :
    ∃ u, Decoded s u syms (c + b.length) ∧ ∀ n, tokenLoop (ts.length + n) t = tokenLoop n u := by
  induction ts generalizing t out c b with
  | nil =>
    obtain rfl := Option.some.inj henc
    obtain rfl := Option.some.inj hexp
    exact ⟨t, h, fun n => by rw [List.length_nil, Nat.zero_add]⟩
  | cons tok ts ih =>
    obtain ⟨htok, hts⟩ := List.forall_mem_cons.1 hts
    obtain ⟨out', hexpTok, hexpRest⟩ := expandFrom_cons_eq_some hexp
    obtain ⟨b₁, b₂, henc₁, henc₂, rfl⟩ := tokensBits_cons_eq_some henc
    obtain ⟨hholds₁, hholds₂⟩ := State.ibufHolds_append hholds
    have hlength := length_of_expandFrom hexpRest
    obtain ⟨u, hpass, hu⟩ := h.tokenPass hp hfmt hfree htok henc₁ hexpTok (by omega) hholds₁
    obtain ⟨v, hv, hloop⟩ := ih hu hts henc₂ hexpRest hholds₂
    rw [List.length_append, ← Nat.add_assoc]
    refine ⟨v, hv, fun n => ?_⟩
    rw [List.length_cons, Nat.add_right_comm, Machine.tokenLoop, hpass]
    exact hloop n

end
end

/-! ## TOK_DES -/

theorem exec_tokDes (s : State) : exec .tokDes s = issue (s.inlenLegal && s.ctLegal) tokDesBody s := rfl

theorem tokDes_legal {s : State} (hinlen : s.inlen ≤ s.par.inMax) (hct : s.ctLegal = true) :
    (s.inlenLegal && s.ctLegal) = true := by
  rw [hct, Bool.and_true]
  exact decide_eq_true hinlen

/-- `TokDes` reads the count as a match's integers are read, and then that many tokens (R218). -/
theorem tokDes_eq_bind (s : State) (q : Nat) :
    tokDes s q = s.readMatchInt q >>= fun r => tokenLoop r.1 ((s.setOutlen 0).setCur (q + r.2)) := by
  unfold State.readMatchInt Sys2Proof.readMatchInt tokDes State.eoDecode
  cases Sys2Proof.eoDecode s.par.eoMaxGroup s.inBit s.inlen q <;> rfl

theorem tokDesBody_eq_bind (s : State) :
    tokDesBody s = tokDes s s.pos >>= fun t => .ok (t.setNbits (t.cur - s.pos)) := by
  rw [tokDesBody]
  cases tokDes s s.pos <;> rfl

theorem tokDesBody_of_error {s : State} {k : ErrKind} (h : tokDes s s.pos = .error k) : tokDesBody s = .error k := by
  rw [tokDesBody_eq_bind, h]
  rfl

/-- A count that is not read ends the operation. -/
theorem tokDes_of_count_error {s : State} {q : Nat} {k : ErrKind} (h : s.readMatchInt q = .error k) :
    tokDes s q = .error k := by
  rw [tokDes_eq_bind, h]
  rfl

section
variable {s : State} {p : Params} {ts : List Token} {syms : List Sym} {b : Bits} {n q : Nat}

/-- Behind a count and tokens the loop stands with their expansion and the tokens still to come. -/
theorem tokDes_of_tokensBits {m : Nat} (hp : p.wf = true) (hfmt : SameFormat s.par p) (hfree : PrefixFree s.ctTable)
    (hts : ∀ tok ∈ ts, tok.wf p = true) (henc : tokensBits p.symMin s.ctTable ts = some b) (hexp : expand ts = some syms)
    (hfit : syms.length ≤ s.par.outMax) (hcount : n = ts.length + m) (hn : 1 ≤ n) (hbound : n < 2 ^ s.par.eoMaxGroup)
    (hholds : s.IbufHolds q (eoCode n ++ b)) :
    ∃ u, Decoded s u syms (q + (eoCode n ++ b).length) ∧ tokDes s q = tokenLoop m u := by
  subst hcount
  obtain ⟨hcode, htokens⟩ := State.ibufHolds_append hholds
  obtain ⟨u, hu, hloop⟩ := (decoded_start s (q + (eoCode (ts.length + m)).length)).tokenLoop hp hfmt hfree hts henc hexp
    hfit htokens
  rw [List.length_append, ← Nat.add_assoc]
  refine ⟨u, hu, ?_⟩
  rw [tokDes_eq_bind, State.readMatchInt, readMatchInt_eoCode hn hbound hcode.1 hcode.2, ← hloop]
  rfl

/-- Where a whole body stands, `TokDes` ends with its expansion and its cursor behind it (R218). -/
theorem tokDes_of_bodyBits (hp : p.wf = true) (hfmt : SameFormat s.par p) (hfree : PrefixFree s.ctTable) (hne : ts ≠ [])
    (hlen : ts.length < 2 ^ s.par.eoMaxGroup) (hts : ∀ tok ∈ ts, tok.wf p = true)
    (hbody : bodyBits p.symMin s.ctTable ts = some b) (hholds : s.IbufHolds q b) (hexp : expand ts = some syms)
    (hfit : syms.length ≤ s.par.outMax) : ∃ u, tokDes s q = .ok u ∧ Decoded s u syms (q + b.length) := by
  obtain ⟨b', henc, rfl⟩ := Option.map_eq_some_iff.1 hbody
  obtain ⟨u, hu, hdes⟩ := tokDes_of_tokensBits (m := 0) hp hfmt hfree hts henc hexp hfit rfl (List.length_pos_iff.2 hne)
    hlen hholds
  exact ⟨u, hdes, hu⟩

/-- Behind a count and fewer tokens than it declares, a token that is not read ends the operation with its kind. -/
theorem tokDesBody_of_bad_token {k : ErrKind} (hpar : s.par.wf = true) (hfree : PrefixFree s.ctTable)
    (hts : ∀ tok ∈ ts, tok.wf s.par = true) (henc : tokensBits s.par.symMin s.ctTable ts = some b)
    (hexp : expand ts = some syms) (hfit : syms.length ≤ s.par.outMax) (hn : ts.length < n)
    (hbound : n < 2 ^ s.par.eoMaxGroup) (hholds : s.IbufHolds s.pos (eoCode n ++ b))
    (hbad : s.decodeToken (s.pos + (eoCode n ++ b).length) = .error k) : tokDesBody s = .error k := by
  have hcount : n = ts.length + (n - ts.length - 1 + 1) := by omega
  obtain ⟨u, hu, hdes⟩ := tokDes_of_tokensBits hpar ⟨rfl, rfl⟩ hfree hts henc hexp hfit hcount (by omega) hbound hholds
  have hread : u.decodeToken u.cur = .error k := by
    rw [hu.cur_eq, ← hbad]
    obtain ⟨-, m, l, rfl⟩ := hu
    rfl
  refine tokDesBody_of_error ?_
  rw [hdes, tokenLoop, tokenPass_eq_bind, hread]
  rfl

end

/-- Settles O48: the count and the tokens are read in turn; what TOK_DES leaves unchanged is its row of the access
table. -/
theorem tokDesOutputsTheExpansion : Obligations.TokDesOutputsTheExpansion := by
  intro s ts b syms hs hpar hinlen hct hfree hne hlen hts hbody hholds hexp hfit
  obtain ⟨u, hdes, hu⟩ := tokDes_of_bodyBits hpar ⟨rfl, rfl⟩ hfree hne hlen hts hbody hholds hexp hfit
  have hbody : tokDesBody s = .ok (u.setNbits b.length) := by
    rw [tokDesBody_eq_bind, hdes]
    show Except.ok (u.setNbits (u.cur - s.pos)) = _
    rw [hu.cur_eq, Nat.add_sub_cancel_left]
  have hrun := issue_of_body_ok hs (tokDes_legal hinlen hct) hbody
  rw [← exec_tokDes] at hrun
  obtain ⟨hinputs, houtside, -, hval, hobuf, -, hsame, -⟩ :=
    exec_leavesUnmarked (i := .tokDes) (by decide) hs hrun rfl
  obtain ⟨holen, hobuf⟩ := hobuf (by decide)
  exact ⟨_, hrun, State.complete_done _, hu.1, rfl, hinputs, houtside, hval (by decide), holen, hobuf, hsame (by decide)⟩

/-- Settles O49: the count is not read, or the token after those read is not. -/
theorem tokDesFaultsOnCutOffAndOverlongBodies : Obligations.TokDesFaultsOnCutOffAndOverlongBodies := by
  intro s hs hpar hinlen hct
  have hlegal := tokDes_legal hinlen hct
  rw [exec_tokDes]
  refine ⟨fun x hcut hends => issue_of_body_error hs hlegal ?_, fun m hm hholds => issue_of_body_error hs hlegal ?_, ?_⟩
  · exact tokDesBody_of_error (tokDes_of_count_error (State.readMatchInt_of_ibufEnds hcut hends))
  · exact tokDesBody_of_error (tokDes_of_count_error (State.readMatchInt_of_lengthGroups hpar hm hholds))
  intro ts syms b n hfree hts hexp hfit henc hn hbound
  refine ⟨fun x hcut hends => issue_of_body_error hs hlegal ?_, fun m hm hholds => issue_of_body_error hs hlegal ?_⟩
  · have hne : eoCode n ++ b ≠ [] :=
      List.append_ne_nil_of_left_ne_nil (List.ne_nil_of_length_pos (eoLen_pos n)) b
    obtain ⟨hholds, hread, hend⟩ := State.ibufEnds_append hne hends
    exact tokDesBody_of_bad_token hpar hfree hts henc hexp hfit hn hbound hholds
      (State.decodeToken_of_cutOffToken hcut hread hend)
  · obtain ⟨hholds, hbad⟩ : s.IbufHolds s.pos (eoCode n ++ b) ∧
        s.decodeToken (s.pos + (eoCode n ++ b).length) = .error .boundsExceeded := by
      obtain hholds | ⟨o, ho, hobound, hholds⟩ := hholds
      · obtain ⟨hholds, hmatch⟩ := State.ibufHolds_append hholds
        exact ⟨hholds, State.decodeToken_of_overlong hpar hm (.inl hmatch)⟩
      · obtain ⟨hholds, hmatch⟩ := State.ibufHolds_append hholds
        exact ⟨hholds, State.decodeToken_of_overlong hpar hm (.inr ⟨o, ho, hobound, hmatch⟩)⟩
    exact tokDesBody_of_bad_token hpar hfree hts henc hexp hfit hn hbound hholds hbad

end Sys2Proof.Machine
end

section
/-! SUPPORT. The token loop step by step (R218, R225): a step of the loop is one pass and what retiring it adds, so the run
of the loop ends where the atomic TOK_DES ends (R17). -/

namespace Sys2Proof.Machine

/-! ## One step of the loop -/

/-- In BUSY, unless the reset input comes first, a step runs what the loop fetches (R300, R310). -/
theorem step_busy {s : State} (hs : s.status = .busy) (hscript : ∀ rest, s.script ≠ .hwReset :: rest) :
    step s = runFetched (fetchToken s) := by
  rw [step_eq_runFetched]
  obtain ⟨rest, h, -⟩ | ⟨-, -, e⟩ | ⟨h, -⟩ | ⟨h, -⟩ := fetch_cases s
  · exact absurd h (hscript rest)
  · rw [e]
  · exact absurd hs h
  · exact absurd hs h

/-- With a token left and its flag below INLEN, the flag names the instruction that is run (R130, R225). -/
theorem fetchToken_run {s : State} (hleft : 0 < s.tokLeft) (havail : s.avail s.cur 1 = true) :
    fetchToken s = .run (decodeFlag (s.inBit s.cur)) (s.setCur (s.cur + 1)) := by
  rw [fetchToken, if_neg (by omega), if_neg (by simp [havail])]

/-- A token of the loop is run and then retired. -/
theorem runFetched_token (f : Bool) (s : State) :
    ∃ u, exec (decodeFlag f) s = .next u ∧ runFetched (.run (decodeFlag f) s) = .next (retireToken u) := by
  cases f
  · exact ⟨_, exec_matchTok s, rfl⟩
  · exact ⟨_, exec_litTok s, rfl⟩

theorem retireToken_of_not_busy {s : State} (h : s.status ≠ .busy) : retireToken s = s := if_neg h

theorem retireToken_of_more {s : State} (h : s.status = .busy) (hleft : 2 ≤ s.tokLeft) :
    retireToken s = s.setTokLeft (s.tokLeft - 1) := by
  rw [retireToken, if_pos h, if_neg (by omega)]

theorem retireToken_of_last {s : State} (h : s.status = .busy) (hleft : s.tokLeft ≤ 1) :
    retireToken s = s.finishTokens := by
  rw [retireToken, if_pos h, if_pos hleft]

/-- Settles O8: the step is the token's meaning, and retiring it has the three outcomes. -/
theorem stepRunsTheTokenAtTheCursor : Obligations.StepRunsTheTokenAtTheCursor := by
  intro s i hs hscript hleft hflag hi
  obtain rfl : decodeFlag (s.inBit s.cur) = i := Except.ok.inj hi
  obtain ⟨u, hexec, hrun⟩ := runFetched_token (s.inBit s.cur) (s.setCur (s.cur + 1))
  have hstep : step s = .next (retireToken u) := by
    rw [step_busy hs hscript, fetchToken_run hleft (avail_iff.2 hflag), hrun]
  refine ⟨u, hexec, fun hu => ?_, fun hu hmore => ?_, fun hu hlast => ?_⟩
  · rw [hstep, retireToken_of_not_busy (by simp [hu])]
  · rw [hstep, retireToken_of_more hu hmore]
  · rw [hstep, retireToken_of_last hu hlast]
    rfl

/-- With a token left a step is the pass of R218, settled and retired; a missing flag is the pass's fault too. -/
theorem step_tokenPass {s : State} (hs : s.status = .busy) (hscript : ∀ rest, s.script ≠ .hwReset :: rest)
    (hleft : 0 < s.tokLeft) : step s = .next (retireToken (settleToken s (tokenPass s))) := by
  rw [step_busy hs hscript, tokenPass]
  split_ifs with havail hflag
  · rw [fetchToken, if_neg (by omega), if_pos havail]
    rfl
  · rw [fetchToken_run hleft (by simpa using havail), hflag]
    show Host.Outcome.next (retireToken (settleToken _ _)) = _
    cases litBody (s.setCur (s.cur + 1)) <;> rfl
  · rw [fetchToken_run hleft (by simpa using havail), Bool.eq_false_of_not_eq_true hflag]
    show Host.Outcome.next (retireToken (settleToken _ _)) = _
    cases matchBody (s.setCur (s.cur + 1)) <;> rfl

/-! ## The run of the loop -/

/-- The state of the atomic operation, taken into the loop with `n` tokens still to process. -/
abbrev State.inLoop (s : State) (n : Nat) : State := (s.setStatus .busy .none).setTokLeft n

theorem outputBlind_inLoop (n : Nat) : OutputBlind fun s => s.inLoop n := fun _ => ⟨rfl, rfl, rfl, fun _ => rfl⟩

/-- A pass does not look at STATUS or at the number of tokens left (R220, R222). -/
theorem tokenPass_inLoop (s : State) (n : Nat) :
    tokenPass (s.inLoop n) = tokenPass s >>= fun u => .ok (u.inLoop n) := by
  rw [tokenPass_eq_bind, tokenPass_eq_bind, bind_assoc]
  refine bind_congr fun r => ?_
  rw [applyToken_comm (outputBlind_inLoop n), bind_assoc, bind_assoc]
  rfl

theorem run_succ {M : Host.Core} {s t : M.State} (h : M.step s = .next t) (n : Nat) : M.run (n + 1) s = M.run n t := by
  rw [Host.Core.run, h]

/-- A block that waits stays as it is, however many steps are taken (R301). -/
theorem run_of_waiting {s : State} (hs : s.status ≠ .busy) (hscript : s.script = []) (n : Nat) :
    core.run n s = .next s := by
  have hstep : step s = .next s := by
    rw [step, fetch, hscript]
    simp only [if_neg hs]
  induction n with
  | zero => rfl
  | succ n ih => rw [run_succ (M := core) hstep, ih]

/-- A step of the loop, seen from the atomic operation: the pass, settled there, and what retiring it adds. -/
theorem step_inLoop {s : State} (hscript : s.script = []) (n : Nat) : step (s.inLoop (n + 1)) =
    .next (retireToken (settleToken s (tokenPass s >>= fun u => .ok (u.inLoop (n + 1))))) := by
  rw [step_tokenPass rfl (fun rest => by simp [hscript]) n.succ_pos, tokenPass_inLoop]
  cases tokenPass s <;> rfl

/-- How the token loop ends: NBITS is written and the operation completes (R225), or fault entry (R281). -/
def endOfTokens (s : State) : Except ErrKind State → State
  | .ok u => u.finishTokens
  | .error k => s.faultEntry k

/-- Fault entry forgets what the tokens before it have written (R281). -/
theorem Expanded.endOfTokens_eq {s t : State} (h : Expanded s t) (r : Except ErrKind State) :
    endOfTokens t r = endOfTokens s r := by
  obtain ⟨m, n, c, rfl, -⟩ := h
  cases r <;> rfl

/-- As many steps as there are tokens left end where the passes end. -/
theorem run_inLoop {s : State} (hscript : s.script = []) (n : Nat) :
    core.run (n + 1) (s.inLoop (n + 1)) = .next (endOfTokens s (tokenLoop (n + 1) s)) := by
  induction n generalizing s with
  | zero =>
    rw [run_succ (M := core) (step_inLoop hscript 0), tokenLoop]
    cases tokenPass s <;> rfl
  | succ n ih =>
    rw [run_succ (M := core) (step_inLoop hscript (n + 1)), tokenLoop]
    cases hpass : tokenPass s with
    | error k => exact run_of_waiting (s := s.faultEntry k) (by simp) hscript (n + 1)
    | ok u =>
      have hexp : Expanded s u := (tokenPass_ends s).of_ok hpass
      have hu : u.script = [] := by
        obtain ⟨m, l, c, rfl, -⟩ := hexp
        exact hscript
      show core.run (n + 1) (u.inLoop (n + 1)) = .next (endOfTokens s (tokenLoop (n + 1) u))
      rw [ih hu, hexp.endOfTokens_eq]

/-- Settles O50: the state inside the loop is that of the atomic operation before its first pass. -/
theorem tokDesIsTheRunOfItsTokens : Obligations.TokDesIsTheRunOfItsTokens := by
  intro s n k hs hscript hinlen hct hdecode
  obtain ⟨n, rfl⟩ : ∃ n', n = n' + 1 := Nat.exists_eq_add_one.2 (eoCode_of_eoDecode hdecode).1
  have hdes : tokDes s s.pos = tokenLoop (n + 1) ((s.setOutlen 0).setCur (s.pos + k)) := by rw [tokDes, hdecode]
  have hrun := run_inLoop (s := (s.setOutlen 0).setCur (s.pos + k)) hscript n
  refine hrun.trans ?_
  rw [exec_tokDes, tokDes_legal hinlen hct, issue_ready hs, tokDesBody_eq_bind, hdes]
  cases hloop : tokenLoop (n + 1) ((s.setOutlen 0).setCur (s.pos + k)) with
  | error x => rfl
  | ok u =>
    obtain ⟨m, l, c, rfl, -⟩ := (tokenLoop_ends ..).of_ok hloop
    rfl

end Sys2Proof.Machine
end

section
/-! SUPPORT. TOK_SER (R212 to R214): a body is one append of its bits, up to the first token that has no encoding. -/

namespace Sys2Proof

/-! ## What a token must satisfy to be written -/

/-- The fields of a match are numbers of VALW bits, as those of a TOK cell are (R44). -/
def Token.Fits (p : Params) : Token → Prop
  | .lit _ => True
  | .mtch o l => o < 2 ^ p.valw ∧ l < 2 ^ p.valw

theorem Token.wf_mtch_iff {p : Params} {o l : Nat} :
    (Token.mtch o l).wf p = true ↔ (1 ≤ o ∧ 1 ≤ l) ∧ (Token.mtch o l).Fits p := by
  simp only [Token.wf, Token.Fits, Bool.and_eq_true, decide_eq_true_eq]
  tauto

/-- The offset of a match lies within `produced` symbols (R214). -/
def Token.Reaches (produced : Nat) : Token → Prop
  | .lit _ => True
  | .mtch o _ => o ≤ produced

namespace Machine

theorem exec_tokSer (s : State) : exec .tokSer s = issue (s.olenLegal && s.ntokLegal && s.ctLegal) tokSer s := rfl

/-! ## One token (R213, R214) -/

/-- Write one token, after tokens that expand to `produced` symbols (R213, R214). -/
def serToken (s : State) (produced : Nat) : Token → Except ErrKind State
  | .lit v => serLit s v
  | .mtch o l => serMatch s o l produced

theorem tokAt_fits (s : State) (i : Nat) : (s.tokAt i).Fits s.par := by
  rw [State.tokAt, Token.ofCell]
  split_ifs
  · trivial
  · exact ⟨Nat.mod_lt _ (Nat.two_pow_pos _), Nat.mod_lt _ (Nat.two_pow_pos _)⟩

theorem tokens_fit (s : State) : ∀ tok ∈ s.tokens, tok.Fits s.par := by
  intro tok htok
  obtain ⟨i, -, rfl⟩ := List.mem_map.1 htok
  exact tokAt_fits s i

/-- `b` is the encoding of a token after `produced` symbols: the token is well formed, it does not point before the start
of the output, and a literal has a codeword (R213, R214). -/
def EncodesTo (s : State) (produced : Nat) (tok : Token) (b : Bits) : Prop :=
  tok.wf s.par = true ∧ tok.Reaches produced ∧ encodeToken s.par.symMin s.ctTable tok = some b

/-- Looking a symbol of the alphabet up in CT is reading its entry (R46). -/
theorem tableLookup_ctTable {s : State} {k : Nat} (hk : k < Config.nsym) :
    tableLookup s.ctTable k = (s.ctEntry k).map CtCell.cw := by
  refine Option.ext fun cw => ?_
  rw [tableLookup_eq_some_iff (ctTable_keys_nodup s), mem_ctTable, Option.map_eq_some_iff]
  exact and_iff_right hk

/-- The encoding of a literal of the alphabet is its flag and its codeword (R105). -/
theorem encodeToken_lit {s : State} {v : Sym} (h : s.par.symOk v.toNat = true) :
    encodeToken s.par.symMin s.ctTable (.lit v) = (s.ctEntry (v.toNat - s.par.symMin)).map fun e => true :: e.cw := by
  have hmin : s.par.symMin ≤ v.toNat := by
    simp only [Params.symOk, Bool.and_eq_true, decide_eq_true_eq] at h
    exact h.1
  rw [encodeToken, if_pos hmin, tableLookup_ctTable (Params.entry_lt_nsym h), Option.map_map]
  rfl

theorem serMatch_eq_bind {s : State} {o l produced : Nat} (ho : 1 ≤ o) (hl : 1 ≤ l) (hreach : o ≤ produced) :
    serMatch s o l produced = emit s [false] >>= fun s1 => eoEmit s1 o >>= fun s2 => eoEmit s2 l := by
  have hpos : ¬ (decide (o = 0) || decide (l = 0)) = true := by
    simp
    omega
  rw [serMatch, if_neg hpos, if_neg (by omega)]
  cases emit s [false] with
  | error x => rfl
  | ok s1 =>
    show _ = eoEmit s1 o >>= fun s2 => eoEmit s2 l
    dsimp only
    cases eoEmit s1 o <;> rfl

/-- A token with an encoding is one append of it (R213, R214). -/
theorem serToken_of_encodesTo {s : State} {produced : Nat} {tok : Token} {b : Bits} (h : EncodesTo s produced tok b) :
    serToken s produced tok = emit s b := by
  obtain ⟨hwf, hreach, henc⟩ := h
  cases tok with
  | lit v =>
    rw [encodeToken_lit hwf] at henc
    obtain ⟨e, he, rfl⟩ := Option.map_eq_some_iff.1 henc
    have hok : s.par.symOk v.toNat = true := hwf
    rw [serToken, serLit, if_neg (by simp [hok]), he]
  | mtch o l =>
    obtain ⟨⟨ho, hl⟩, -⟩ := Token.wf_mtch_iff.1 hwf
    obtain rfl := Option.some.inj henc
    rw [serToken, serMatch_eq_bind ho hl hreach]
    show _ = emit s ([false] ++ (eoCode o ++ eoCode l))
    rw [emit_append]
    refine bind_congr fun s1 => ?_
    rw [eoEmit_of_ne_zero s1 (by omega), emit_append]
    refine bind_congr fun s2 => ?_
    exact eoEmit_of_ne_zero s2 (by omega)

/-- A token without an encoding is InvalidInput, whatever room there is (R213, R214, R273). -/
theorem serToken_of_not_encodesTo {s : State} {produced : Nat} {tok : Token} (hfits : tok.Fits s.par)
    (h : ∀ b, ¬ EncodesTo s produced tok b) : serToken s produced tok = .error .invalidInput := by
  cases tok with
  | lit v =>
    rw [serToken, serLit]
    by_cases hok : s.par.symOk v.toNat = true
    · cases he : s.ctEntry (v.toNat - s.par.symMin) with
      | none => rw [if_neg (by simp [hok])]
      | some e => exact absurd ⟨hok, trivial, by rw [encodeToken_lit hok, he]; rfl⟩ (h (true :: e.cw))
    · rw [if_pos (by simpa using hok)]
  | mtch o l =>
    rw [serToken, serMatch]
    by_cases hzero : o = 0 ∨ l = 0
    · rw [if_pos (by simpa using hzero)]
    by_cases hfar : o > produced
    · rw [if_neg (by simpa using hzero), if_pos hfar]
    exact absurd ⟨Token.wf_mtch_iff.2 ⟨by omega, hfits⟩, Nat.le_of_not_gt hfar, rfl⟩ (h _)

/-! ## The tokens one after the other (R212) -/

/-- The tokens of a list written one after the other. -/
def serList : List Token → Nat → State → Except ErrKind State
  | [], _, s => .ok s
  | tok :: ts, produced, s => serToken s produced tok >>= serList ts (produced + tok.size)

theorem serToken_ends (s : State) (produced : Nat) (tok : Token) : Ends (Emitted s) (serToken s produced tok) := by
  cases tok with
  | lit v => exact serLit_ends s v
  | mtch o l => exact serMatch_ends s o l produced

/-- An append leaves what the serializer reads as it is (R79, R212). -/
theorem Emitted.keeps {s t : State} (h : Emitted s t) :
    t.par = s.par ∧ t.ctTable = s.ctTable ∧ t.tokAt = s.tokAt ∧ t.ntok = s.ntok ∧ t.tokens = s.tokens := by
  obtain ⟨m, n, rfl, -⟩ := h
  exact ⟨rfl, rfl, rfl, rfl, rfl⟩

theorem emit_ok_keeps {s t : State} {b : Bits} (h : emit s b = .ok t) :
    t.par = s.par ∧ t.ctTable = s.ctTable ∧ t.tokAt = s.tokAt ∧ t.ntok = s.ntok ∧ t.tokens = s.tokens :=
  ((emit_ends s b).of_ok h).keeps

theorem serTokens_succ (n i produced : Nat) (s : State) : serTokens (n + 1) i produced s =
    serToken s produced (s.tokAt i) >>= serTokens n (i + 1) (produced + (s.tokAt i).size) := by
  rw [serTokens]
  cases s.tokAt i with
  | lit v =>
    show _ = serLit s v >>= serTokens n (i + 1) (produced + 1)
    dsimp only
    cases serLit s v <;> rfl
  | mtch o l =>
    show _ = serMatch s o l produced >>= serTokens n (i + 1) (produced + l)
    dsimp only
    cases serMatch s o l produced <;> rfl

/-- The loop of `TokSer` writes the tokens of TOK in turn; writing them does not change TOK (R212). -/
theorem serTokens_eq_serList (n i produced : Nat) (s : State) :
    serTokens n i produced s = serList ((List.range' i n).map s.tokAt) produced s := by
  induction n generalizing i produced s with
  | zero => rfl
  | succ n ih =>
    rw [serTokens_succ, List.range'_succ, List.map_cons, serList]
    cases ht : serToken s produced (s.tokAt i) with
    | error x => rfl
    | ok t =>
      obtain ⟨-, -, htokAt, -, -⟩ := ((serToken_ends ..).of_ok ht).keeps
      show serTokens n (i + 1) _ t = serList _ _ t
      rw [ih, htokAt]

/-- `TokSer` writes the count and then the tokens of TOK[0..NTOK) (R212). -/
theorem tokSer_eq_bind (s : State) : tokSer s = eoEmit s s.ntok >>= serList s.tokens 0 := by
  rw [tokSer]
  cases ht : eoEmit s s.ntok with
  | error x => rfl
  | ok t =>
    obtain ⟨-, -, htokAt, -, -⟩ := ((eoEmit_ends s s.ntok).of_ok ht).keeps
    show serTokens s.ntok 0 0 t = serList s.tokens 0 t
    rw [serTokens_eq_serList, htokAt, State.tokens, List.range_eq_range']

theorem tokSer_of_ntok_zero {s : State} (h : s.ntok = 0) : tokSer s = .error .invalidInput := by
  rw [tokSer_eq_bind, h, eoEmit_zero]
  rfl

theorem length_tokens (s : State) : s.tokens.length = s.ntok := by rw [State.tokens, List.length_map, List.length_range]

section
variable {s : State} {out out' : List Sym} {before : List Token} {b : Bits}

/-- A token that expands points nowhere before the start of the output (R210). -/
theorem reaches_of_expandFrom {tok : Token} (h : expandFrom out [tok] = some out') : tok.Reaches out.length := by
  obtain ⟨v, rfl, -⟩ | ⟨o, l, rfl, -, hreach, -⟩ := expandFrom_singleton_eq_some_iff.1 h
  · trivial
  · exact hreach

/-- Tokens that have an encoding are one append of their bits (R211). -/
theorem serList_append (hwf : ∀ tok ∈ before, tok.wf s.par = true) (hexp : expandFrom out before = some out')
    (henc : tokensBits s.par.symMin s.ctTable before = some b) (holen : s.olen ≤ s.par.obMax) (rest : List Token) :
    serList (before ++ rest) out.length s = emit s b >>= serList rest out'.length := by
  induction before generalizing s out b with
  | nil =>
    obtain rfl := Option.some.inj henc
    obtain rfl := Option.some.inj hexp
    rw [emit_nil holen]
    rfl
  | cons tok before ih =>
    obtain ⟨htok, hbefore⟩ := List.forall_mem_cons.1 hwf
    obtain ⟨mid, hexpTok, hexpRest⟩ := expandFrom_cons_eq_some hexp
    obtain ⟨b₁, b₂, henc₁, henc₂, rfl⟩ := tokensBits_cons_eq_some henc
    have hmid : out.length + tok.size = mid.length := by simpa using (length_of_expandFrom hexpTok).symm
    rw [List.cons_append, serList, serToken_of_encodesTo ⟨htok, reaches_of_expandFrom hexpTok, henc₁⟩, emit_append,
      bind_assoc, hmid]
    refine emit_bind_congr fun t ht => ?_
    obtain ⟨hpar, hct, -⟩ := emit_ok_keeps ht
    obtain ⟨-, -, holen⟩ := emit_ok_frame ht
    rw [← hpar] at hbefore
    rw [← hpar, ← hct] at henc₂
    exact ih hbefore hexpRest henc₂ holen

/-- The count and the tokens that have an encoding are one append (R211). -/
theorem tokSer_append {rest : List Token} (hne : s.ntok ≠ 0) (htokens : s.tokens = before ++ rest)
    (hwf : ∀ tok ∈ before, tok.wf s.par = true) (hexp : expand before = some out)
    (henc : tokensBits s.par.symMin s.ctTable before = some b) :
    tokSer s = emit s (eoCode s.ntok ++ b) >>= serList rest out.length := by
  rw [tokSer_eq_bind, eoEmit_of_ne_zero s hne, emit_append, bind_assoc, htokens]
  refine emit_bind_congr fun t ht => ?_
  obtain ⟨hpar, hct, -⟩ := emit_ok_keeps ht
  obtain ⟨-, -, holen⟩ := emit_ok_frame ht
  rw [← hpar] at hwf
  rw [← hpar, ← hct] at henc
  exact serList_append hwf hexp henc holen rest

/-- A token list that has an encoding is one append of its body (R211, R212). -/
theorem tokSer_eq_emit (hne : s.ntok ≠ 0) (hwf : ∀ tok ∈ s.tokens, tok.wf s.par = true)
    (hexp : (expand s.tokens).isSome = true) (hbody : bodyBits s.par.symMin s.ctTable s.tokens = some b) :
    tokSer s = emit s b := by
  obtain ⟨syms, hexp⟩ := Option.isSome_iff_exists.1 hexp
  obtain ⟨b', henc, rfl⟩ := Option.map_eq_some_iff.1 hbody
  rw [tokSer_append hne (List.append_nil _).symm hwf hexp henc, length_tokens]
  cases emit s _ <;> rfl

/-- A token that breaks one of the three conditions has no encoding after the tokens before it. -/
theorem not_encodesTo_of_bad {bad : Token} (hexp : expand before = some out)
    (hbad : bad.wf s.par = false ∨ encodeToken s.par.symMin s.ctTable bad = none ∨ expand (before ++ [bad]) = none) :
    ¬ EncodesTo s out.length bad b := by
  rintro ⟨hwf, hreach, henc⟩
  obtain h | h | h := hbad
  · rw [hwf] at h
    cases h
  · rw [henc] at h
    cases h
  · rw [expand, expandFrom_append, show expandFrom [] before = some out from hexp, Option.bind_some] at h
    cases bad with
    | lit v => cases h
    | mtch o l =>
      obtain ⟨⟨ho, -⟩, -⟩ := Token.wf_mtch_iff.1 hwf
      have hsome := expandFrom_singleton_eq_some_iff.2 (.inr ⟨o, l, rfl, ho, hreach, rfl⟩)
      rw [h] at hsome
      cases hsome

/-- At the first token without an encoding the kind depends on whether what comes before it fits (R212). -/
theorem tokSer_of_first_bad {rest : List Token} {bad : Token} (htokens : s.tokens = before ++ bad :: rest)
    (hwf : ∀ tok ∈ before, tok.wf s.par = true) (hexp : expand before = some out)
    (henc : tokensBits s.par.symMin s.ctTable before = some b) (hbad : ∀ x, ¬ EncodesTo s out.length bad x) :
    tokSer s = .error (if s.olen + eoLen s.ntok + b.length ≤ s.par.obMax then .invalidInput else .capacityExceeded) := by
  have hne : s.ntok ≠ 0 := by
    rw [← length_tokens, htokens, List.length_append, List.length_cons]
    omega
  have hall : tokSer s = emit s (eoCode s.ntok ++ b) >>= fun _ => .error .invalidInput := by
    rw [tokSer_append hne htokens hwf hexp henc]
    refine emit_bind_congr fun t ht => ?_
    obtain ⟨hpar, hct, -⟩ := emit_ok_keeps ht
    have hfits : bad.Fits t.par := hpar ▸ tokens_fit s bad (by simp [htokens])
    have hbadt : ∀ x, ¬ EncodesTo t out.length bad x := by
      intro x hx
      rw [EncodesTo, hpar, hct] at hx
      exact hbad x hx
    rw [serList, serToken_of_not_encodesTo hfits hbadt]
    rfl
  rw [hall, emit_bind_invalidInput, List.length_append, eoLen, Nat.add_assoc s.olen]

end

/-- What follows a part that succeeded had its result to go on with. -/
theorem exists_of_bind_eq_ok {α β : Type} {x : Except ErrKind α} {f : α → Except ErrKind β} {b : β}
    (h : x >>= f = .ok b) : ∃ a, x = .ok a ∧ f a = .ok b := by
  cases x with
  | error k => cases h
  | ok a => exact ⟨a, rfl, h⟩

/-- Tokens written to their end have an encoding, each of them (R213, R214). -/
theorem encodable_of_serList_ok {s u : State} {ts : List Token} {produced : Nat} (hfits : ∀ tok ∈ ts, tok.Fits s.par)
    (h : serList ts produced s = .ok u) :
    (∀ tok ∈ ts, tok.wf s.par = true) ∧ ∃ b, tokensBits s.par.symMin s.ctTable ts = some b := by
  induction ts generalizing s produced with
  | nil => exact ⟨by simp, [], rfl⟩
  | cons tok ts ih =>
    obtain ⟨htok, hts⟩ := List.forall_mem_cons.1 hfits
    rw [serList] at h
    by_cases hcode : ∃ b, EncodesTo s produced tok b
    · obtain ⟨b₁, hcode⟩ := hcode
      rw [serToken_of_encodesTo hcode] at h
      obtain ⟨t, ht, h⟩ := exists_of_bind_eq_ok h
      obtain ⟨hpar, hct, -⟩ := emit_ok_keeps ht
      obtain ⟨hwf, b₂, henc₂⟩ := ih (by rwa [hpar]) h
      rw [hpar] at hwf
      rw [hpar, hct] at henc₂
      obtain ⟨hwfTok, -, henc₁⟩ := hcode
      exact ⟨List.forall_mem_cons.2 ⟨hwfTok, hwf⟩, b₁ ++ b₂, by rw [tokensBits, henc₁, henc₂]⟩
    · rw [serToken_of_not_encodesTo htok (not_exists.1 hcode)] at h
      cases h

/-- `TokSer` accepts only token lists whose tokens all have an encoding (R212 to R214). -/
theorem encodable_of_tokSer_ok {s u : State} (h : tokSer s = .ok u) :
    s.ntok ≠ 0 ∧ (∀ tok ∈ s.tokens, tok.wf s.par = true) ∧ ∃ b, bodyBits s.par.symMin s.ctTable s.tokens = some b := by
  have hne : s.ntok ≠ 0 := by
    intro hzero
    rw [tokSer_of_ntok_zero hzero] at h
    cases h
  rw [tokSer_eq_bind] at h
  obtain ⟨t, ht, h⟩ := exists_of_bind_eq_ok h
  obtain ⟨hpar, hct, -⟩ := ((eoEmit_ends s s.ntok).of_ok ht).keeps
  obtain ⟨hwf, b, henc⟩ := encodable_of_serList_ok (by rw [hpar]; exact tokens_fit s) h
  rw [hpar] at hwf
  rw [hpar, hct] at henc
  exact ⟨hne, hwf, _, Option.map_eq_some_iff.2 ⟨b, henc, rfl⟩⟩

/-! ## TOK_SER -/

theorem tokSer_legal {s : State} (holen : s.olen ≤ s.par.obMax) (hntok : s.ntok ≤ s.par.tokMax) (hct : s.ctLegal = true) :
    (s.olenLegal && s.ntokLegal && s.ctLegal) = true := by
  rw [hct, Bool.and_true, Bool.and_eq_true]
  exact ⟨decide_eq_true holen, decide_eq_true hntok⟩

/-- Settles O46: TOK_SER is one append of the body; what it leaves unchanged is its row of the access table. -/
theorem tokSerAppendsTheBody : Obligations.TokSerAppendsTheBody := by
  intro s b hs hntok hct hpos hwf hexp hbody
  have hemit : tokSer s = emit s b := tokSer_eq_emit (by omega) hwf hexp hbody
  rw [exec_tokSer]
  refine ⟨fun hfits => ?_, fun holen hfull => ?_⟩
  · have hrun := issue_of_body_ok hs (tokSer_legal (by omega) hntok hct) (hemit.trans (emit_ok_iff.2 ⟨hfits, rfl⟩))
    obtain ⟨hinputs, houtside, hnbits, hval, -, hout, hsame, -⟩ :=
      exec_leavesUnmarked (i := .tokSer) (by decide) hs hrun rfl
    obtain ⟨houtlen, hout⟩ := hout (by decide)
    exact ⟨_, hrun, State.complete_done _, appendedBits_writeSeq s b, hinputs, houtside, hnbits (by decide),
      hval (by decide), houtlen, hout, hsame (by decide)⟩
  · exact issue_of_body_error hs (tokSer_legal holen hntok hct) (hemit.trans (emit_error_iff.2 ⟨hfull, rfl⟩))

/-- Settles O47: 0 has no code, and the first bad token has no encoding. -/
theorem tokSerRefusesUnencodableTokens : Obligations.TokSerRefusesUnencodableTokens := by
  intro s hs holen hntok hct
  have hlegal := tokSer_legal holen hntok hct
  rw [exec_tokSer]
  refine ⟨fun hzero => issue_of_body_error hs hlegal (tokSer_of_ntok_zero hzero),
    fun before rest bad b htokens hwf hexp henc hbad => issue_of_body_error hs hlegal ?_⟩
  obtain ⟨out, hexp⟩ := Option.isSome_iff_exists.1 hexp
  exact tokSer_of_first_bad htokens hwf hexp henc fun _ => not_encodesTo_of_bad hexp hbad

end Machine
end Sys2Proof
end

section
/-! SUPPORT. The stream round trip (R226): what ENCODE writes is the header of a table in which no codeword begins
another and a body under it, and a block of the same format reads both back, whatever its capacities are. -/

namespace Sys2Proof.Machine

theorem exec_encode (s : State) : exec .encode s = issue (s.olenLegal && s.ntokLegal) encodeBody s := rfl

theorem exec_decode (s : State) : exec .decode s = issue s.inlenLegal decodeBody s := rfl

/-! ## What ENCODE writes (R253) -/

theorem encodeBody_eq_bind (s : State) : encodeBody s = hufBuild s >>= fun v => hdrSer v >>= tokSer := by
  rw [encodeBody]
  cases hufBuild s with
  | error x => rfl
  | ok v =>
    show _ = hdrSer v >>= tokSer
    dsimp only
    cases hdrSer v <;> rfl

/-- No LEN is above CW_MAX when no codeword is longer (R46). -/
theorem ctLegal_of_ctTable {s : State} (h : ∀ e ∈ s.ctTable, e.2.length ≤ Config.cwMax) : s.ctLegal = true := by
  refine List.all_eq_true.2 fun k hk => ?_
  cases he : s.ctEntry k with
  | none => rfl
  | some e =>
    have hlen := h (k, e.cw) (mem_ctTable.2 ⟨List.mem_range.1 hk, e, he, rfl⟩)
    rw [length_cw] at hlen
    exact decide_eq_true hlen

/-- `v` is `s` with the table ENCODE builds: no codeword begins another, it has a form on the wire, and the tokens of `s`
have the body `b` under it. -/
structure EncodesUnder (s v : State) (b : Bits) : Prop where
  built : ∃ m, v = s.replaceCt m
  prefixFree : PrefixFree v.ctTable
  tableWf : TableWf v.ctTable
  ntok_ne_zero : s.ntok ≠ 0
  tokens_wf : ∀ tok ∈ s.tokens, tok.wf s.par = true
  body : bodyBits s.par.symMin v.ctTable s.tokens = some b

theorem EncodesUnder.ctLegal {s v : State} {b : Bits} (h : EncodesUnder s v b) : v.ctLegal = true := by
  obtain ⟨-, -, hentries⟩ := h.tableWf
  exact ctLegal_of_ctTable fun e he => (hentries e he).2.2

/-- An ENCODE that succeeds is one append of the header and the body (R253). -/
theorem exists_encodesUnder {s u : State} (hs : s.status = .ready) (hexp : (expand s.tokens).isSome = true)
    (h : encodeBody s = .ok u) :
    ∃ v b, EncodesUnder s v b ∧ emit v (headerBits s.par.symMin v.ctTable ++ b) = .ok u := by
  rw [encodeBody_eq_bind] at h
  obtain ⟨v, hbuild, h⟩ := exists_of_bind_eq_ok h
  obtain ⟨w, hheader, hbody⟩ := exists_of_bind_eq_ok h
  obtain ⟨hfree, hmax, -⟩ := hufBuildTableIsPrefixFreeAndComplete s v.complete hs (issue_of_body_ok hs rfl hbuild) rfl
  obtain ⟨m, rfl, -⟩ := (hufBuild_ends s).of_ok hbuild
  obtain ⟨hne, hcw⟩ := encodable_of_hdrSer_ok hheader
  rw [hdrSer_eq_emit hne hcw] at hheader
  obtain ⟨hpar, hct, -, hntok, htokens⟩ := emit_ok_keeps hheader
  obtain ⟨hpos, hwf, b, hbits⟩ := encodable_of_tokSer_ok hbody
  rw [tokSer_eq_emit hpos hwf (by rw [htokens]; exact hexp) hbits] at hbody
  rw [hntok] at hpos
  rw [hpar, htokens] at hwf
  rw [hpar, hct, htokens] at hbits
  have hfits := ctTable_fits (ctLegal_of_ctTable hmax)
  refine ⟨s.replaceCt m, b, ⟨⟨m, rfl⟩, hfree, ⟨hne, ctTable_keys_nodup _, fun e he => ?_⟩, hpos, hwf, hbits⟩,
    emit_emit.1 ⟨w, hheader, hbody⟩⟩
  exact ⟨(hfits e he).1, List.length_pos_iff.2 (hcw e he), hmax e he⟩

/-! ## A header does not depend on the capacities (R195) -/

/-- An entry is refused for its symbol, or its length is read and then its codeword (R195). -/
theorem desEntry_eq_ite (s : State) : desEntry s =
    if s.avail s.cur Config.symw = false then .error .malformedHeader
    else if s.par.symOk (s.inBits s.cur Config.symw) = false then .error .malformedHeader
    else if ((s.setCur (s.cur + Config.symw)).ctEntry (s.inBits s.cur Config.symw - s.par.symMin)).isSome then
      .error .malformedHeader
    else headerInt (s.setCur (s.cur + Config.symw)) >>= fun r =>
      desCodeword r.2 (s.inBits s.cur Config.symw - s.par.symMin) r.1 := by
  rw [desEntry]
  dsimp only
  cases headerInt (s.setCur (s.cur + Config.symw)) <;> rfl

/-- `s` with the parameters `p`. -/
abbrev State.withPar (s : State) (p : Params) : State := { s with par := p }

theorem desCodeword_withPar (s : State) (p : Params) (k l : Nat) :
    desCodeword (s.withPar p) k l = desCodeword s k l >>= fun t => .ok (t.withPar p) := by
  show (if _ then _ else if s.avail s.cur l = false then _ else _) = _
  rw [desCodeword]
  split_ifs <;> rfl

section
variable {p : Params} {s : State} (hfmt : SameFormat p s.par)
include hfmt

theorem eoDecode_withPar (c : Nat) : (s.withPar p).eoDecode c = s.eoDecode c := by
  obtain ⟨hgroup, -⟩ := hfmt
  show Sys2Proof.eoDecode p.eoMaxGroup s.inBit s.inlen c = _
  rw [hgroup]
  rfl

theorem headerInt_withPar : headerInt (s.withPar p) = headerInt s >>= fun r => .ok (r.1, r.2.withPar p) := by
  rw [headerInt, headerInt, eoDecode_withPar hfmt]
  cases s.eoDecode s.cur <;> rfl

theorem desEntry_withPar : desEntry (s.withPar p) = desEntry s >>= fun t => .ok (t.withPar p) := by
  have hnext := headerInt_withPar (s := s.setCur (s.cur + Config.symw)) hfmt
  obtain ⟨-, hsym⟩ := hfmt
  have hok : ∀ v, p.symOk v = s.par.symOk v := fun v => by rw [Params.symOk, Params.symMax, hsym]; rfl
  rw [desEntry_eq_ite, desEntry_eq_ite]
  show (if s.avail s.cur Config.symw = false then _
    else if p.symOk (s.inBits s.cur Config.symw) = false then _
    else if ((s.setCur (s.cur + Config.symw)).ctEntry (s.inBits s.cur Config.symw - p.symMin)).isSome then _
    else headerInt ((s.setCur (s.cur + Config.symw)).withPar p) >>= fun r =>
      desCodeword r.2 (s.inBits s.cur Config.symw - p.symMin) r.1) = _
  rw [hok, hsym, hnext]
  split_ifs
  · rfl
  · rfl
  · rfl
  · rw [bind_assoc, bind_assoc]
    exact bind_congr fun r => desCodeword_withPar r.2 p _ _

theorem desEntries_withPar (n : Nat) : desEntries n (s.withPar p) = desEntries n s >>= fun t => .ok (t.withPar p) := by
  induction n generalizing s with
  | zero => rfl
  | succ n ih =>
    rw [desEntries, desEntries, desEntry_withPar hfmt]
    cases ht : desEntry s with
    | error x => rfl
    | ok t =>
      have htpar : t.par = s.par := by
        obtain ⟨m, c, rfl, -⟩ := (desEntry_ends s).of_ok ht
        rfl
      exact ih (htpar ▸ hfmt)

/-- Blocks of the same format read the same header (R195). -/
theorem hdrDes_withPar (q : Nat) : hdrDes (s.withPar p) q = hdrDes s q >>= fun t => .ok (t.withPar p) := by
  have hcount := headerInt_withPar (s := s.readTo [] q) hfmt
  rw [hdrDes_eq_bind, hdrDes_eq_bind, bind_assoc]
  show headerInt ((s.readTo [] q).withPar p) >>= _ = _
  rw [hcount, bind_assoc]
  cases hr : headerInt (s.readTo [] q) with
  | error x => rfl
  | ok r =>
    obtain ⟨c, hc, -⟩ := (headerInt_ends (s.readTo [] q)).of_ok hr
    have hrpar : r.2.par = s.par := by simp [hc]
    exact desEntries_withPar (hrpar ▸ hfmt) r.1

end

/-- Where a whole header stands, a block of its format reads it, whatever the block's capacities (R195). -/
theorem hdrDes_of_headerBits {s : State} {p : Params} {es : List (Nat × Bits)} (hp : p.wf = true)
    (hfmt : SameFormat s.par p) (hes : TableWf es) (h : s.IbufHolds s.pos (headerBits p.symMin es)) :
    hdrDes s s.pos = .ok (s.readTo es (s.pos + (headerBits p.symMin es).length)) := by
  obtain ⟨hne, hnodup, hbounds⟩ := hes
  have hle : es.length ≤ 95 := length_le_nsym hnodup fun e he => (hbounds e he).1
  have hbound : es.length < 2 ^ p.eoMaxGroup := lt_two_pow_eoMaxGroup hp (by omega)
  have hread := hdrDes_of_entryBits (s := s.withPar p) (m := 0) hp ⟨hnodup, hbounds⟩ rfl (List.length_pos_iff.2 hne)
    hbound h
  show hdrDes ((s.withPar p).withPar s.par) s.pos = _
  rw [hdrDes_withPar (s := s.withPar p) hfmt, show hdrDes (s.withPar p) s.pos = _ from hread]
  rfl

/-! ## DECODE (R255) -/

/-- DECODE reads a header and, where it ends, a body (R255). -/
theorem decodeBody_of_ok {s v u : State} (hheader : hdrDes s s.pos = .ok v) (hbody : tokDes v v.cur = .ok u) :
    decodeBody s = .ok (u.setNbits ((v.cur - s.pos) + (u.cur - v.cur))) := by
  simp only [decodeBody, hheader, hbody]

theorem ctTable_congr {s t : State} (h : t.ct = s.ct) : t.ctTable = s.ctTable := entriesAmong_congr h _

@[simp] theorem ctTable_complete (s : State) : s.complete.ctTable = s.ctTable := rfl

@[simp] theorem ctTable_setNbits (s : State) (n : Nat) : (s.setNbits n).ctTable = s.ctTable := rfl

/-- Where a stream stands, a block of its format reads the table from the header and, under that table, the expansion from
the body (R100, R255). -/
theorem decodeBody_of_stream {s : State} {p : Params} {es table : List (Nat × Bits)} {ts : List Token} {b : Bits}
    {syms : List Sym} (hp : p.wf = true) (hfmt : SameFormat s.par p) (hes : TableWf es)
    (hct : ∀ c, (s.readTo es c).ctTable = table) (hfree : PrefixFree table) (hne : ts ≠ [])
    (hlen : ts.length < 2 ^ s.par.eoMaxGroup) (hts : ∀ tok ∈ ts, tok.wf p = true)
    (hbody : bodyBits p.symMin table ts = some b) (hholds : s.IbufHolds s.pos (headerBits p.symMin es ++ b))
    (hexp : expand ts = some syms) (hfit : syms.length ≤ s.par.outMax) :
    ∃ u, decodeBody s = .ok (u.setNbits (headerBits p.symMin es ++ b).length) ∧ u.ct = ctOf es ∧ OutputIs s u syms := by
  obtain ⟨hheader, htokens⟩ := State.ibufHolds_append hholds
  have hread := hdrDes_of_headerBits hp hfmt hes hheader
  have htable := hct (s.pos + (headerBits p.symMin es).length)
  rw [← htable] at hfree hbody
  obtain ⟨u, hdes, hu⟩ := tokDes_of_bodyBits (q := s.pos + (headerBits p.symMin es).length) hp
    (show SameFormat (s.readTo es _).par p from hfmt) hfree hne hlen hts hbody htokens hexp hfit
  have hcur := hu.cur_eq
  obtain ⟨hout, m, n, hframe⟩ := hu
  refine ⟨u, ?_, by simp [hframe], hout⟩
  rw [decodeBody_of_ok hread hdes, hcur, State.setCur_cur, Nat.add_sub_cancel_left, Nat.add_sub_cancel_left,
    List.length_append]

/-- What was appended stays so when the operation completes (R250). -/
theorem appendedBits_complete {s t : State} {b : Bits} (h : emit s b = .ok t) : AppendedBits s t.complete b := by
  have happended : AppendedBits s t b := (emit_ok_iff.1 h).2 ▸ appendedBits_writeSeq s b
  exact happended

/-- The output stays as it is when NBITS is written and the operation completes (R250, R255). -/
theorem OutputIs.complete {s t : State} {l : List Sym} (h : OutputIs s t l) (n : Nat) :
    OutputIs s (t.setNbits n).complete l := h

/-- Settles O60: what ENCODE appended is a header and a body, and `decodeBody_of_stream` reads both back. -/
theorem streamRoundTrip : Obligations.StreamRoundTrip := by
  intro s t s' syms hs hpar holen hntok hexp hrun ht hs' hgroup hsym hinlen hend hbits hfit
  obtain ⟨-, u, hencode, rfl⟩ := issue_ready_done hs hrun ht
  obtain ⟨v, b, henc, hemit⟩ := exists_encodesUnder hs (Option.isSome_iff_exists.2 ⟨syms, hexp⟩) hencode
  have hvolen : v.olen = 0 := by
    obtain ⟨m, rfl⟩ := henc.built
    exact holen
  obtain ⟨-, hct, -⟩ := emit_ok_keeps hemit
  have happended := appendedBits_complete hemit
  have htable : ∀ c, (s'.readTo v.ctTable c).ctTable = v.ctTable := fun c =>
    TableIs.ctTable_eq (read_ctOf henc.tableWf.2.1) henc.ctLegal
  have hne : s.tokens ≠ [] :=
    List.ne_nil_of_length_pos (by rw [length_tokens]; exact Nat.pos_of_ne_zero henc.ntok_ne_zero)
  have hlen : s.tokens.length < 2 ^ s'.par.eoMaxGroup := by rwa [length_tokens, hgroup]
  obtain ⟨w, hbody, hwct, hout⟩ := decodeBody_of_stream hpar ⟨hgroup, hsym⟩ henc.tableWf htable henc.prefixFree hne hlen
    henc.tokens_wf henc.body (happended.ibufHolds hvolen hend hbits) hexp hfit
  have hrun' := issue_of_body_ok hs' (decide_eq_true hinlen) hbody
  refine ⟨_, hrun', State.complete_done _, ?_, hout.complete _, ?_⟩
  · have hdecoded : w.ctTable = v.ctTable := (ctTable_congr hwct).trans (htable 0)
    rw [ctTable_complete, ctTable_complete, ctTable_setNbits, hdecoded, hct]
  · obtain ⟨holen', -⟩ := happended
    rw [holen', hvolen, Nat.zero_add, State.complete_nbits, State.setNbits_nbits]

end Sys2Proof.Machine
end

section
/-! SUPPORT. DECODE (R255) of a stream that stands at POS, the header's entries in any order: CT reads as the stream's
table up to order, and a body is the same bits under both. -/

namespace Sys2Proof

/-! ## A body under a table in another order (R211) -/

theorem tableLookup_perm {es es' : List (Nat × Bits)} (hperm : es.Perm es') (hnodup : (es.map Prod.fst).Nodup) (k : Nat) :
    tableLookup es k = tableLookup es' k := by
  have hnodup' : (es'.map Prod.fst).Nodup := (hperm.map Prod.fst).nodup_iff.1 hnodup
  refine Option.ext fun cw => ?_
  rw [tableLookup_eq_some_iff hnodup, tableLookup_eq_some_iff hnodup', hperm.mem_iff]

namespace Machine

section
variable {es es' : List (Nat × Bits)} (h : ∀ k, tableLookup es k = tableLookup es' k)
include h

theorem encodeToken_congr (symMin : Nat) (tok : Token) : encodeToken symMin es tok = encodeToken symMin es' tok := by
  cases tok with
  | lit v => rw [encodeToken, encodeToken, h]
  | mtch o l => rfl

theorem tokensBits_congr (symMin : Nat) (ts : List Token) : tokensBits symMin es ts = tokensBits symMin es' ts := by
  induction ts with
  | nil => rfl
  | cons tok ts ih => rw [tokensBits, tokensBits, encodeToken_congr h, ih]

theorem bodyBits_congr (symMin : Nat) (ts : List Token) : bodyBits symMin es ts = bodyBits symMin es' ts := by
  rw [bodyBits, bodyBits, tokensBits_congr h]

end

theorem PrefixFree.perm {es es' : List (Nat × Bits)} (h : PrefixFree es) (hperm : es'.Perm es) : PrefixFree es' :=
  fun a ha b hb => h a (hperm.mem_iff.1 ha) b (hperm.mem_iff.1 hb)

/-! ## DECODE at POS -/

/-- Settles O59: `decodeBody_of_stream` under the table CT reads as; what DECODE leaves unchanged is its row of the access
table. -/
theorem decodeReadsTheStreamAtPos : Obligations.DecodeReadsTheStreamAtPos := by
  intro s es ts b syms hs hpar hinlen hes hfree hne hlen hts hbody hholds hexp hfit
  have ⟨_, hnodup, hbounds⟩ := hes
  have htable : ∀ c, TableIs (s.readTo es c) es := fun _ => read_ctOf hnodup
  have hperm : (s.readTo es 0).ctTable.Perm es :=
    (htable 0).ctTable_perm hnodup fun e he => (hbounds e he).imp_right And.right
  rw [bodyBits_congr (tableLookup_perm hperm.symm hnodup)] at hbody
  obtain ⟨u, hdecode, hct, hout⟩ := decodeBody_of_stream hpar ⟨rfl, rfl⟩ hes (fun _ => rfl)
    (PrefixFree.perm hfree hperm) hne hlen hts hbody hholds hexp hfit
  have hrun := issue_of_body_ok hs (decide_eq_true hinlen) hdecode
  rw [← State.inlenLegal, ← exec_decode] at hrun
  obtain ⟨hinputs, houtside, -, hval, hobuf, -, -, hnew⟩ := exec_leavesUnmarked (i := .decode) (by decide) hs hrun rfl
  obtain ⟨holen, hobuf⟩ := hobuf (by decide)
  have hdecoded : TableIs (u.setNbits (headerBits s.par.symMin es ++ b).length).complete es := fun k => by
    rw [← htable 0 k]
    exact congrArg (Mem.read · k) hct
  exact ⟨_, hrun, State.complete_done _, hdecoded, hout.complete _, rfl, hinputs, houtside, hnew (by decide),
    hval (by decide), holen, hobuf⟩

end Machine
end Sys2Proof
end

section
/-! SUPPORT. DECODE (R255) as HDR_DES and then TOK_DES: what HDR_DES leaves is legal for TOK_DES, and TOK_DES does not look
at the registers that a completed HDR_DES has written besides CT. -/

namespace Sys2Proof.Machine

/-! ## How a settled operation ends (R250, R281) -/

theorem settle_ok (s u : State) : settle s (.ok u) = u.complete := rfl

theorem settle_error (s : State) (k : ErrKind) : settle s (.error k) = s.faultEntry k := rfl

theorem settle_ok_bind (s u : State) (f : State → Except ErrKind State) : settle s (.ok u >>= f) = settle s (f u) := rfl

theorem settle_error_bind (s : State) (k : ErrKind) (f : State → Except ErrKind State) :
    settle s (.error k >>= f) = s.faultEntry k := rfl

/-- In READY a command with illegal operands is fault entry (R250, R277). -/
theorem issue_of_illegal {body : State → Except ErrKind State} {s : State} (hs : s.status = .ready) :
    issue false body s = .next (s.faultEntry .illegalCommand) := by
  rw [issue, hs]
  rfl

@[simp] theorem faultEntry_faulted_iff {s : State} {k k' : ErrKind} : (s.faultEntry k).Faulted k' ↔ k = k' := by
  simp [State.Faulted]

@[simp] theorem not_complete_faulted {s : State} {k : ErrKind} : ¬ s.complete.Faulted k := by
  simp [State.Faulted]

theorem complete_eq_and_ready_iff {u c : State} : u.complete = c ∧ c.status = .ready ↔ c = u.complete := by
  constructor
  · rintro ⟨rfl, -⟩
    rfl
  · rintro rfl
    exact ⟨rfl, rfl⟩

/-! ## The table a header leaves (R195) -/

theorem ctLegal_iff {s : State} : s.ctLegal = true ↔
    ∀ k e, k < Config.nsym → s.ctEntry k = some e → e.len.toNat ≤ Config.cwMax := by
  simp only [State.ctLegal, List.all_eq_true, List.mem_range]
  constructor
  · intro h k e hk he
    have hlegal := h k hk
    rw [he] at hlegal
    exact of_decide_eq_true hlegal
  · intro h k hk
    cases he : s.ctEntry k with
    | none => rfl
    | some e => exact decide_eq_true (h k e hk he)

/-- A header was read on from `s` to `t`: the cursor did not move back, and no entry became illegal. -/
def ReadOn (s t : State) : Prop := s.cur ≤ t.cur ∧ (s.ctLegal = true → t.ctLegal = true)

theorem ReadOn.refl (s : State) : ReadOn s s := ⟨le_rfl, id⟩

theorem ReadOn.trans {s t u : State} (h : ReadOn s t) (h' : ReadOn t u) : ReadOn s u := by
  obtain ⟨hcur, hct⟩ := h
  obtain ⟨hcur', hct'⟩ := h'
  exact ⟨hcur.trans hcur', hct' ∘ hct⟩

theorem readOn_setCur {s : State} {c : Nat} (h : s.cur ≤ c) : ReadOn s (s.setCur c) := ⟨h, id⟩

theorem headerInt_readOn {s t : State} {n : Nat} (h : headerInt s = .ok (n, t)) : ReadOn s t := by
  rw [headerInt] at h
  cases hdec : s.eoDecode s.cur with
  | value m k =>
    rw [hdec] at h
    obtain ⟨-, rfl⟩ := Prod.mk.inj (Except.ok.inj h)
    exact readOn_setCur (Nat.le_add_right _ _)
  | truncated => simp [hdec] at h
  | boundsExceeded => simp [hdec] at h

/-- A length above CW_MAX is refused before the entry is written, so the entry is legal (R195, D30). -/
theorem desCodeword_readOn {s t : State} {k l : Nat} (h : desCodeword s k l = .ok t) : ReadOn s t := by
  rw [desCodeword] at h
  split_ifs at h with hlong havail
  obtain rfl := Except.ok.inj h
  refine ⟨Nat.le_add_right _ _, fun hct => ctLegal_iff.2 fun j e hj he => ?_⟩
  have hlen : (s.inSeq s.cur l).length ≤ Config.cwMax := (length_inSeq ..).trans_le (Nat.le_of_not_gt hlong)
  have he : Mem.read (Mem.write s.ct k (CtCell.ofCw (s.inSeq s.cur l))) j = some e := he
  rw [Mem.read_write] at he
  split_ifs at he with hjk
  · rw [← Option.some.inj he, ofCw_len hlen]
    exact hlen
  · exact ctLegal_iff.1 hct j e hj he

theorem desEntry_readOn {s t : State} (h : desEntry s = .ok t) : ReadOn s t := by
  rw [desEntry_eq_ite] at h
  split_ifs at h
  obtain ⟨⟨l, u⟩, hlength, hcodeword⟩ := exists_of_bind_eq_ok h
  have hsymbol : ReadOn s (s.setCur (s.cur + Config.symw)) := readOn_setCur (Nat.le_add_right _ _)
  exact hsymbol.trans ((headerInt_readOn hlength).trans (desCodeword_readOn hcodeword))

theorem desEntries_readOn {n : Nat} {s t : State} (h : desEntries n s = .ok t) : ReadOn s t := by
  induction n generalizing s with
  | zero => exact Except.ok.inj h ▸ ReadOn.refl s
  | succ n ih =>
    rw [desEntries] at h
    cases hentry : desEntry s with
    | error x => simp [hentry] at h
    | ok u =>
      rw [hentry] at h
      exact (desEntry_readOn hentry).trans (ih h)

/-- Whatever CT held, a header that is read leaves a legal table and the cursor at or behind its start (R195). -/
theorem hdrDes_readOn {s v : State} {p : Nat} (h : hdrDes s p = .ok v) : p ≤ v.cur ∧ v.ctLegal = true := by
  rw [hdrDes_eq_bind] at h
  obtain ⟨⟨n, u⟩, hcount, hentries⟩ := exists_of_bind_eq_ok h
  obtain ⟨hcur, hct⟩ := (headerInt_readOn hcount).trans (desEntries_readOn hentries)
  exact ⟨hcur, hct (by rfl)⟩

/-! ## TOK_DES after a completed HDR_DES -/

/-- The state the next command finds when an operation has completed with `n` in NBITS and the host has then written `p`
to POS; the cursor, which that command sets itself, is left as it is. -/
abbrev State.reissued (s : State) (n p : Nat) : State := (((s.setNbits n).setStatus .ready .none).setTokLeft 0).setPos p

theorem outputBlind_reissued (n p : Nat) : OutputBlind fun s => s.reissued n p := fun _ => ⟨rfl, rfl, rfl, fun _ => rfl⟩

/-- A pass does not look at STATUS, NBITS, POS or the number of tokens left (R220, R222). -/
theorem tokenPass_reissued (s : State) (n p : Nat) :
    tokenPass (s.reissued n p) = tokenPass s >>= fun u => .ok (u.reissued n p) := by
  rw [tokenPass_eq_bind, tokenPass_eq_bind, bind_assoc]
  refine bind_congr fun r => ?_
  rw [applyToken_comm (outputBlind_reissued n p), bind_assoc, bind_assoc]
  rfl

theorem tokenLoop_reissued (m : Nat) (s : State) (n p : Nat) :
    tokenLoop m (s.reissued n p) = tokenLoop m s >>= fun u => .ok (u.reissued n p) := by
  induction m generalizing s with
  | zero => rfl
  | succ m ih =>
    rw [tokenLoop, tokenLoop, tokenPass_reissued]
    cases tokenPass s with
    | error x => rfl
    | ok u => exact ih u

/-- The body's bits are read alike by `TokDes` inside DECODE and by a TOK_DES issued afterwards (R255). -/
theorem tokDes_reissued (s : State) (n p q : Nat) :
    tokDes ((s.setNbits n).complete.setPos p) q = tokDes s q >>= fun u => .ok (u.reissued n p) := by
  rw [tokDes_eq_bind, tokDes_eq_bind, bind_assoc]
  exact bind_congr fun r => tokenLoop_reissued r.1 ((s.setOutlen 0).setCur (q + r.2)) n p

/-! ## DECODE is its two commands -/

theorem hdrDesBody_eq_bind (s : State) :
    hdrDesBody s = hdrDes s s.pos >>= fun v => .ok (v.setNbits (v.cur - s.pos)) := by
  rw [hdrDesBody]
  cases hdrDes s s.pos <;> rfl

theorem decodeBody_eq_bind (s : State) : decodeBody s = hdrDes s s.pos >>= fun v => tokDes v v.cur >>= fun u =>
    .ok (u.setNbits ((v.cur - s.pos) + (u.cur - v.cur))) := by
  rw [decodeBody]
  cases hdrDes s s.pos with
  | error x => rfl
  | ok v =>
    show _ = tokDes v v.cur >>= fun u => .ok (u.setNbits ((v.cur - s.pos) + (u.cur - v.cur)))
    dsimp only
    cases tokDes v v.cur <;> rfl

section
variable {s v : State} (hv : hdrDes s s.pos = .ok v)
include hv

/-- POS + NBITS of the state HDR_DES leaves is where the header ended. -/
theorem pos_add_length_header : s.pos + (v.cur - s.pos) = v.cur := by
  obtain ⟨hcur, -⟩ := hdrDes_readOn hv
  exact Nat.add_sub_cancel' hcur

/-- TOK_DES behind a header reads the body where DECODE reads it, and its operands are legal (R250, R255). -/
theorem exec_tokDes_afterHeader (hinlen : s.inlenLegal = true) :
    exec .tokDes ((v.setNbits (v.cur - s.pos)).complete.setPos v.cur) =
      .next (settle ((v.setNbits (v.cur - s.pos)).complete.setPos v.cur) (tokDes v v.cur >>= fun u =>
        .ok ((u.reissued (v.cur - s.pos) v.cur).setNbits (u.cur - v.cur)))) := by
  have hlegal : (v.inlenLegal && v.ctLegal) = true := by
    obtain ⟨-, hct⟩ := hdrDes_readOn hv
    rw [hct, Bool.and_true]
    obtain ⟨m, c, rfl, -⟩ := (hdrDes_ends s s.pos).of_ok hv
    exact hinlen
  rw [exec_tokDes]
  show issue (v.inlenLegal && v.ctLegal) _ _ = _
  rw [hlegal, issue_ready rfl, tokDesBody_eq_bind, State.setPos_pos, tokDes_reissued, bind_assoc]
  rfl

/-- After the body only NBITS, and POS as the host moves it back, differ from what DECODE leaves (R255). -/
theorem complete_reissued {u : State} (hu : tokDes v v.cur = .ok u) (n p m k : Nat) :
    (((u.reissued n p).setNbits m).complete.setPos s.pos).setNbits k = (u.setNbits k).complete := by
  obtain ⟨ct, c, rfl, -⟩ := (hdrDes_ends s s.pos).of_ok hv
  obtain ⟨⟨out, outlen, c', rfl, -⟩, -⟩ := (tokDes_ends ..).of_ok hu
  rfl

end

/-- Settles O58: the operands are illegal for DECODE and HDR_DES alike, or the header is not read, or the body behind it
is not read, or both are. -/
theorem decodeIsHeaderThenBody : Obligations.DecodeIsHeaderThenBody := by
  intro s hs
  rw [exec_decode, exec_hdrDes]
  cases hinlen : s.inlenLegal with
  | false => simp [issue_of_illegal hs]
  | true =>
    rw [issue_ready hs, issue_ready hs, decodeBody_eq_bind, hdrDesBody_eq_bind]
    cases hv : hdrDes s s.pos with
    | error x => simp [settle_error_bind]
    | ok v =>
      have hend := pos_add_length_header hv
      have hbody := exec_tokDes_afterHeader hv hinlen
      cases hu : tokDes v v.cur with
      | error x => simp [settle_ok, settle_ok_bind, settle_error_bind, hend, hbody, hu]
      | ok u =>
        simp [settle_ok, settle_ok_bind, hend, hbody, hu, complete_reissued hv hu, complete_eq_and_ready_iff]

end Sys2Proof.Machine
end

section
/-! SUPPORT. ENCODE (R253) as HUF_BUILD, HDR_SER and TOK_SER: an operation that appends does not look at what completing
the one before it has written. -/

namespace Sys2Proof.Machine

/-! ## Appending after a completed operation (R79, R250) -/

/-- The result of a part, completed (R250). -/
abbrev completed (r : Except ErrKind State) : Except ErrKind State := r >>= fun t => .ok t.complete

theorem emit_complete (s : State) (b : Bits) : emit s.complete b = completed (emit s b) := by
  rw [emit_eq, emit_eq]
  show (if s.olen + b.length ≤ s.par.obMax then _ else _) = _
  split_ifs <;> rfl

theorem eoEmit_complete (s : State) (n : Nat) : eoEmit s.complete n = completed (eoEmit s n) := by
  by_cases hn : n = 0
  · rw [hn, eoEmit_zero, eoEmit_zero]
    rfl
  · rw [eoEmit_of_ne_zero _ hn, eoEmit_of_ne_zero _ hn, emit_complete]

/-- A part run from a completed result, where it does not look at the completion, is completed itself. -/
theorem completed_bind {f : State → Except ErrKind State} (hf : ∀ t : State, f t.complete = completed (f t))
    (r : Except ErrKind State) : completed r >>= f = completed (r >>= f) := by
  rw [completed, completed, bind_assoc, bind_assoc]
  exact bind_congr hf

theorem serEntry_complete (s : State) (k : Nat) (e : CtCell) :
    serEntry s.complete k e = completed (serEntry s k e) := by
  have hcodeword : ∀ t : State, emit t.complete e.cw = completed (emit t e.cw) := fun t => emit_complete t _
  have hlength : ∀ t : State, (eoEmit t.complete e.len.toNat >>= fun u => emit u e.cw) =
      completed (eoEmit t e.len.toNat >>= fun u => emit u e.cw) := fun t => by
    rw [eoEmit_complete, completed_bind hcodeword]
  rw [serEntry_eq_bind, serEntry_eq_bind, emit_complete]
  exact completed_bind hlength _

theorem serEntries_complete (ks : List Nat) (s : State) : serEntries ks s.complete = completed (serEntries ks s) := by
  induction ks generalizing s with
  | nil => rfl
  | cons k ks ih =>
    cases hk : s.ctEntry k with
    | none => rw [serEntries_cons_none hk, serEntries_cons_none (s := s.complete) hk, ih]
    | some e =>
      rw [serEntries_cons_some hk, serEntries_cons_some (s := s.complete) hk, serEntry_complete, completed_bind ih]

theorem hdrSer_complete (s : State) : hdrSer s.complete = completed (hdrSer s) := by
  rw [hdrSer_eq_bind, hdrSer_eq_bind, ← completed_bind (serEntries_complete _), ← eoEmit_complete]
  rfl

theorem serLit_complete (s : State) (v : Sym) : serLit s.complete v = completed (serLit s v) := by
  rw [serLit, serLit, State.complete_par, show s.complete.ctEntry = s.ctEntry from rfl]
  split_ifs with hsym
  · rfl
  · cases s.ctEntry (v.toNat - s.par.symMin) with
    | none => rfl
    | some e => exact emit_complete s (true :: e.cw)

theorem serMatch_of_bad {s : State} {o l produced : Nat} (h : ¬ (1 ≤ o ∧ 1 ≤ l ∧ o ≤ produced)) :
    serMatch s o l produced = .error .invalidInput := by
  rw [serMatch]
  by_cases hzero : o = 0 ∨ l = 0
  · exact if_pos (by simpa using hzero)
  · rw [if_neg (by simpa using hzero), if_pos (by omega)]

theorem serMatch_complete (s : State) (o l produced : Nat) :
    serMatch s.complete o l produced = completed (serMatch s o l produced) := by
  by_cases hok : 1 ≤ o ∧ 1 ≤ l ∧ o ≤ produced
  · have hlength : ∀ t : State, eoEmit t.complete l = completed (eoEmit t l) := fun t => eoEmit_complete t l
    have hoffset : ∀ t : State, (eoEmit t.complete o >>= fun u => eoEmit u l) =
        completed (eoEmit t o >>= fun u => eoEmit u l) := fun t => by rw [eoEmit_complete, completed_bind hlength]
    obtain ⟨ho, hl, hreach⟩ := hok
    rw [serMatch_eq_bind ho hl hreach, serMatch_eq_bind ho hl hreach, emit_complete]
    exact completed_bind hoffset _
  · rw [serMatch_of_bad hok, serMatch_of_bad hok]
    rfl

theorem serToken_complete (produced : Nat) (tok : Token) (s : State) :
    serToken s.complete produced tok = completed (serToken s produced tok) := by
  cases tok with
  | lit v => exact serLit_complete s v
  | mtch o l => exact serMatch_complete s o l produced

theorem serList_complete (ts : List Token) (produced : Nat) (s : State) :
    serList ts produced s.complete = completed (serList ts produced s) := by
  induction ts generalizing produced s with
  | nil => rfl
  | cons tok ts ih => rw [serList, serList, serToken_complete, completed_bind (ih _)]

theorem tokSer_complete (s : State) : tokSer s.complete = completed (tokSer s) := by
  rw [tokSer_eq_bind, tokSer_eq_bind, ← completed_bind (serList_complete _ _), ← eoEmit_complete]
  rfl

/-! ## ENCODE is its three commands -/

/-- An operation run from a completed result, where it does not look at the completion, ends as it does from the result. -/
theorem settle_completed (t : State) (r : Except ErrKind State) : settle t.complete (completed r) = settle t r := by
  cases r <;> rfl

theorem not_faultEntry_eq_and_ready {s c : State} {k : ErrKind} : ¬ (s.faultEntry k = c ∧ c.status = .ready) := by
  rintro ⟨rfl, h⟩
  cases h

/-- HDR_SER leaves OLEN within OBUF, and the other operands of TOK_SER as they were (R79, R191). -/
theorem hdrSer_ok_keeps {s t : State} (h : hdrSer s = .ok t) :
    t.olen ≤ t.par.obMax ∧ t.par = s.par ∧ t.ntok = s.ntok ∧ t.ctTable = s.ctTable := by
  obtain ⟨hne, hcw⟩ := encodable_of_hdrSer_ok h
  rw [hdrSer_eq_emit hne hcw] at h
  obtain ⟨-, -, holen⟩ := emit_ok_frame h
  obtain ⟨hpar, hct, -, hntok, -⟩ := emit_ok_keeps h
  exact ⟨holen, hpar, hntok, hct⟩

section
variable {s v : State} (hs : s.status = .ready) (hv : hufBuild s = .ok v)
include hs hv

/-- No codeword of the table HUF_BUILD leaves is longer than CW_MAX (R177). -/
theorem length_le_cwMax_of_hufBuild : ∀ e ∈ v.ctTable, e.2.length ≤ Config.cwMax := by
  obtain ⟨-, hmax, -⟩ := hufBuildTableIsPrefixFreeAndComplete s v.complete hs (issue_of_body_ok hs rfl hv) rfl
  exact hmax

/-- HDR_SER on the table HUF_BUILD leaves is legal, and writes what `HdrSer` writes in ENCODE (R250, R253). -/
theorem exec_hdrSer_after_hufBuild (holen : s.olen ≤ s.par.obMax) :
    exec .hdrSer v.complete = .next (settle v (hdrSer v)) := by
  have hlegal : (v.complete.olenLegal && v.complete.ctLegal) = true := by
    have hmax := length_le_cwMax_of_hufBuild hs hv
    obtain ⟨m, rfl, -⟩ := (hufBuild_ends s).of_ok hv
    exact hdrSer_legal holen (ctLegal_of_ctTable hmax)
  rw [exec_hdrSer, hlegal, issue_ready rfl, hdrSer_complete, settle_completed]

/-- After HDR_SER the operands of TOK_SER are legal, and it writes what `TokSer` writes in ENCODE (R250, R253). -/
theorem exec_tokSer_after_hdrSer {w : State} (hntok : s.ntok ≤ s.par.tokMax) (hw : hdrSer v = .ok w) :
    exec .tokSer w.complete = .next (settle w (tokSer w)) := by
  have hlegal : (w.complete.olenLegal && w.complete.ntokLegal && w.complete.ctLegal) = true := by
    have hmax := length_le_cwMax_of_hufBuild hs hv
    obtain ⟨m, rfl, -⟩ := (hufBuild_ends s).of_ok hv
    obtain ⟨holen, hpar, hwntok, hct⟩ := hdrSer_ok_keeps hw
    exact tokSer_legal holen (by simpa [hpar, hwntok] using hntok) (ctLegal_of_ctTable (by rwa [ctTable_complete, hct]))
  rw [exec_tokSer, hlegal, issue_ready rfl, tokSer_complete, settle_completed]

end

/-- Settles O56: the first of the three that raises a kind ends ENCODE with it, and where none does ENCODE ends with what
the third leaves. -/
theorem encodeIsItsThreeCommands : Obligations.EncodeIsItsThreeCommands := by
  intro s hs holen hntok
  have hlegal : (s.olenLegal && s.ntokLegal) = true :=
    Bool.and_eq_true_iff.2 ⟨decide_eq_true holen, decide_eq_true hntok⟩
  rw [exec_encode, exec_hufBuild, hlegal, issue_ready hs, issue_ready hs, encodeBody_eq_bind]
  cases hv : hufBuild s with
  | error x => simp [settle_error, settle_error_bind]
  | ok v =>
    have hheader := exec_hdrSer_after_hufBuild hs hv holen
    cases hw : hdrSer v with
    | error x => simp [settle_ok, settle_ok_bind, settle_error, settle_error_bind, hheader, hw]
    | ok w =>
      have hbody := exec_tokSer_after_hdrSer hs hv hntok hw
      cases hu : tokSer w with
      | error x => simp [settle_ok, settle_ok_bind, settle_error, hheader, hbody, hw, hu, not_faultEntry_eq_and_ready]
      | ok u => simp [settle_ok, settle_ok_bind, hheader, hbody, hw, hu, complete_eq_and_ready_iff]

end Sys2Proof.Machine
end

section
/-! SUPPORT. ENCODE (R253) where it completes: the table of two or more symbols has a header, every token has an encoding
under it, and the longest stream fits. -/

namespace Sys2Proof.Machine

/-! ## The longest body (R105, R106) -/

section
variable {symMin : Nat} {table : List (Nat × Bits)} (hmax : ∀ e ∈ table, e.2.length ≤ Config.cwMax)
include hmax

theorem length_encodeToken_le {tok : Token} {b : Bits} (h : encodeToken symMin table tok = some b) :
    b.length ≤ tokenBound tok := by
  cases tok with
  | lit v =>
    rw [encodeToken] at h
    split_ifs at h
    obtain ⟨cw, hcw, rfl⟩ := Option.map_eq_some_iff.1 h
    have hlen : cw.length ≤ Config.cwMax := hmax _ (mem_of_tableLookup hcw)
    rw [List.length_cons, tokenBound]
    omega
  | mtch o l =>
    obtain rfl := Option.some.inj h
    rw [List.length_cons, List.length_append, tokenBound, eoLen, eoLen]
    omega

/-- Tokens that each have an encoding have one together, within the sum of their bounds. -/
theorem exists_tokensBits {ts : List Token} (h : ∀ tok ∈ ts, (encodeToken symMin table tok).isSome = true) :
    ∃ b, tokensBits symMin table ts = some b ∧ b.length ≤ (ts.map tokenBound).sum := by
  induction ts with
  | nil => exact ⟨[], rfl, le_rfl⟩
  | cons tok ts ih =>
    obtain ⟨htok, hts⟩ := List.forall_mem_cons.1 h
    obtain ⟨b₁, henc₁⟩ := Option.isSome_iff_exists.1 htok
    obtain ⟨b₂, henc₂, hlen₂⟩ := ih hts
    have hlen₁ := length_encodeToken_le hmax henc₁
    refine ⟨b₁ ++ b₂, by rw [tokensBits, henc₁, henc₂], ?_⟩
    rw [List.length_append, List.map_cons, List.sum_cons]
    omega

/-- The body of such tokens is within the bound (R104). -/
theorem exists_bodyBits {ts : List Token} (h : ∀ tok ∈ ts, (encodeToken symMin table tok).isSome = true) :
    ∃ b, bodyBits symMin table ts = some b ∧ b.length ≤ eoLen ts.length + (ts.map tokenBound).sum := by
  obtain ⟨b, henc, hlen⟩ := exists_tokensBits hmax h
  refine ⟨eoCode ts.length ++ b, by rw [bodyBits, henc, Option.map_some], ?_⟩
  rw [List.length_append, eoLen]
  omega

end

/-! ## The table of two or more symbols (R177) -/

/-- A well-formed token has an encoding where its symbol, if it is a literal, has an entry (R105, R106). -/
theorem isSome_encodeToken {s : State} {tok : Token} (hwf : tok.wf s.par = true)
    (hentry : ∀ v, tok = .lit v → (s.ctEntry (v.toNat - s.par.symMin)).isSome = true) :
    (encodeToken s.par.symMin s.ctTable tok).isSome = true := by
  cases tok with
  | lit v =>
    have hsym : s.par.symOk v.toNat = true := hwf
    rw [encodeToken_lit hsym, Option.isSome_map]
    exact hentry v rfl
  | mtch o l => rfl

section
variable {s : State} {root : Node}

theorem TreeOf.isSome_ctEntry (h : TreeOf s root) (k : Nat) :
    ((builtFrom s root).ctEntry k).isSome = true ↔ k < Config.nsym ∧ s.freqCell k ≠ 0 := by
  rw [h.tableIs k, Option.isSome_map, isSome_tableLookup, h.mem_keys]

/-- Two symbols with a count give two entries. -/
theorem TreeOf.two_le_length_ctTable (h : TreeOf s root) {j k : Nat} (hjk : j < k) (hk : k < Config.nsym)
    (hj0 : s.freqCell j ≠ 0) (hk0 : s.freqCell k ≠ 0) : 2 ≤ (builtFrom s root).ctTable.length := by
  have hsubset : [j, k] ⊆ (root.assign []).map Prod.fst := by
    simp only [List.cons_subset, h.mem_keys, List.nil_subset, and_true]
    exact ⟨⟨hjk.trans hk, hj0⟩, hk, hk0⟩
  have hnodup : [j, k].Nodup := by simp [hjk.ne]
  rw [h.ctTable_perm.length_eq, ← List.length_map (f := Prod.fst)]
  exact (hnodup.subperm hsubset).length_le

/-- Where it has two entries, the table of the counts has a header (R177, R190). -/
theorem TreeOf.tableWf (h : TreeOf s root) (htwo : 2 ≤ (builtFrom s root).ctTable.length) :
    TableWf (builtFrom s root).ctTable := by
  refine ⟨List.ne_nil_of_length_pos (by omega), ctTable_keys_nodup _, fun e he => ?_⟩
  obtain ⟨hentry, hmax⟩ := h.entry_fits (h.ctTable_perm.mem_iff.1 he)
  exact ⟨hentry, List.length_pos_iff.2 (h.codeword_ne_nil htwo he), hmax⟩

theorem TreeOf.prefixFree (h : TreeOf s root) : PrefixFree (builtFrom s root).ctTable :=
  fun _ ha _ hb hne hab => hne (congrArg Prod.fst (h.eq_of_isPrefix ha hb hab))

/-- What ENCODE needs of the tokens and the counts makes the tokens encodable under the table it builds, within the longest
stream (R177, R192, R253). -/
theorem TreeOf.exists_encodesUnder (h : TreeOf s root) (htwo : 2 ≤ (builtFrom s root).ctTable.length)
    (hntok : 1 ≤ s.ntok) (hwf : ∀ tok ∈ s.tokens, tok.wf s.par = true)
    (hlit : ∀ v, Token.lit v ∈ s.tokens → s.freqCell (v.toNat - s.par.symMin) ≠ 0) :
    ∃ b, EncodesUnder s (s.replaceCt (ctOf (root.assign []))) b ∧
      (headerBits s.par.symMin (builtFrom s root).ctTable ++ b).length ≤ s.encodeBound := by
  have htable := h.tableWf htwo
  have hmax : ∀ e ∈ (builtFrom s root).ctTable, e.2.length ≤ Config.cwMax :=
    fun e he => (h.entry_fits (h.ctTable_perm.mem_iff.1 he)).2
  have hencode : ∀ tok ∈ s.tokens, (encodeToken s.par.symMin (builtFrom s root).ctTable tok).isSome = true := by
    intro tok htok
    refine isSome_encodeToken (s := builtFrom s root) (hwf tok htok) ?_
    rintro v rfl
    exact (h.isSome_ctEntry _).2 ⟨Params.entry_lt_nsym (hwf _ htok), hlit v htok⟩
  obtain ⟨b, hbody, hlen⟩ := exists_bodyBits hmax hencode
  obtain ⟨-, hheader⟩ := headerIsAtMost10843Bits s.par.symMin _ htable
  refine ⟨b, ⟨⟨_, rfl⟩, h.prefixFree, htable, by omega, hwf, hbody⟩, ?_⟩
  rw [length_tokens] at hlen
  rw [List.length_append, State.encodeBound]
  omega

end

/-! ## ENCODE -/

/-- ENCODE of tokens that have a body under the table it builds is one append of header and body (R253). -/
theorem EncodesUnder.encodeBody_eq {s v : State} {b : Bits} (h : EncodesUnder s v b) (hbuild : hufBuild s = .ok v)
    (hexp : (expand s.tokens).isSome = true) :
    encodeBody s = emit v (headerBits s.par.symMin v.ctTable ++ b) := by
  obtain ⟨⟨m, rfl⟩, -, ⟨hne, -, hbounds⟩, hntok, hwf, hbody⟩ := h
  have hcw : ∀ e ∈ (s.replaceCt m).ctTable, e.2 ≠ [] := fun e he => by
    obtain ⟨-, hpos, -⟩ := hbounds e he
    exact List.length_pos_iff.1 hpos
  rw [encodeBody_eq_bind, hbuild]
  show hdrSer (s.replaceCt m) >>= tokSer = _
  rw [hdrSer_eq_emit hne hcw, emit_append]
  refine emit_bind_congr fun w hw => ?_
  obtain ⟨hpar, hct, -, hwntok, htokens⟩ := emit_ok_keeps hw
  refine tokSer_eq_emit (by rwa [hwntok]) ?_ (by rw [htokens]; exact hexp) ?_
  · rw [htokens, hpar]
    exact hwf
  · rw [htokens, hpar, hct]
    exact hbody

/-- Making CT anew leaves OBUF and OLEN as they are (R173). -/
theorem AppendedBits.of_replaceCt {s t : State} {m : Mem CtCell} {b : Bits} (h : AppendedBits (s.replaceCt m) t b) :
    AppendedBits s t b := h

/-- Settles O57: the table, the header and the body are those of `EncodesUnder`, and they fit; what ENCODE leaves unchanged
is its row of the access table. -/
theorem encodeWritesTableHeaderAndBody : Obligations.EncodeWritesTableHeaderAndBody := by
  intro s hs hntokMax hntok ⟨j, k, hjk, hk, hj0, hk0⟩ hwf hexp hlit hroom
  obtain ⟨root, htree⟩ := exists_treeOf hk hk0
  have htwo := htree.two_le_length_ctTable hjk hk hj0 hk0
  obtain ⟨b, henc, hlen⟩ := htree.exists_encodesUnder htwo hntok hwf hlit
  have hfits : s.olen + (headerBits s.par.symMin (builtFrom s root).ctTable ++ b).length ≤ s.par.obMax := by omega
  obtain ⟨u, hemit⟩ : ∃ u, emit (s.replaceCt (ctOf (root.assign []))) _ = .ok u := ⟨_, emit_ok_iff.2 ⟨hfits, rfl⟩⟩
  have hlegal : (s.olenLegal && s.ntokLegal) = true :=
    Bool.and_eq_true_iff.2 ⟨decide_eq_true (by omega), decide_eq_true hntokMax⟩
  have hrun := issue_of_body_ok hs hlegal ((henc.encodeBody_eq htree.hufBuild_eq hexp).trans hemit)
  rw [← exec_encode] at hrun
  obtain ⟨hinputs, houtside, hnbits, hval, -, hout, -, hnew⟩ :=
    exec_leavesUnmarked (i := .encode) (by decide) hs hrun rfl
  obtain ⟨houtlen, hout⟩ := hout (by decide)
  obtain ⟨-, hct, -⟩ := emit_ok_frame hemit
  have hentry : u.complete.ctEntry = (builtFrom s root).ctEntry := congrArg Mem.read hct
  have htable : u.complete.ctTable = (builtFrom s root).ctTable := ctTable_congr hct
  refine ⟨_, b, hrun, State.complete_done _, ?_, fun k => ?_, ?_, ?_, hinputs, houtside, hnew (by decide),
    hnbits (by decide), hval (by decide), houtlen, hout⟩
  · rw [htable]
    exact htree.prefixFree
  · rw [hentry]
    exact htree.isSome_ctEntry k
  · rw [htable]
    exact henc.body
  · rw [htable]
    exact (appendedBits_complete hemit).of_replaceCt

end Sys2Proof.Machine
end

section
/-! SUPPORT. The control of the block: what a step adds around a command (nothing), the two resets (R257, R300), commands
in FAULT (R251), and commands with illegal operands (R250). -/

namespace Sys2Proof.Machine

/-! ## A command in a step -/

/-- Outside BUSY a word that decodes names the instruction that is run (R250, R251). -/
theorem fetchCommand_run {w : Byte} {s : State} {i : Instr} (hs : s.status ≠ .busy) (hw : decodeCmd w = .ok i) :
    fetchCommand w s = .run i s := by
  rw [fetchCommand]
  cases hstatus : s.status with
  | ready => simp only [hw]
  | busy => exact absurd hstatus hs
  | fault => simp only [hw]

/-- Settles O7: the word is fetched as its instruction, and a command that is run is not retired. -/
theorem stepRunsTheCommandWritten : Obligations.StepRunsTheCommandWritten := by
  intro s w rest i hs hw hscript hdecode
  have hcmd : decodeCmd (BitVec.ofNat 8 w) = .ok i := hdecode
  obtain ⟨hlit, hmatch⟩ := decodeCmd_not_token hcmd
  rw [step_writeCmd hs hw hscript, fetchCommand_run (s := s.setScript rest) hs hcmd, runFetched_command hlit hmatch]

/-! ## Reset (R257, R300) -/

theorem State.resetBlock_cleared (s : State) : s.resetBlock.Cleared :=
  ⟨⟨rfl, rfl, rfl, rfl⟩, rfl, rfl, rfl, rfl, rfl, rfl, rfl, fun _ => rfl, fun _ => rfl, fun _ => ⟨rfl, rfl, rfl, rfl⟩⟩

theorem exec_reset_of_not_busy {s : State} (hs : s.status ≠ .busy) : exec .reset s = .next s.resetBlock := by
  show execReset s = _
  rw [execReset]
  cases hstatus : s.status with
  | ready => rfl
  | busy => exact absurd hstatus hs
  | fault => rfl

/-- The reset input comes before everything else, in every STATE (R300). -/
theorem step_hwReset {s : State} {rest : List HostAct} (hscript : s.script = .hwReset :: rest) :
    step s = .next (s.setScript rest).resetBlock := by
  rw [step_eq_runFetched, fetch, hscript]
  rfl

/-- Settles O10: the command and the input are the same reset. -/
theorem resetCommandAndResetInputClearTheBlock : Obligations.ResetCommandAndResetInputClearTheBlock :=
  ⟨fun s hs => ⟨_, exec_reset_of_not_busy hs, s.resetBlock_cleared, rfl, rfl, rfl, rfl⟩,
    fun s rest hscript => ⟨_, step_hwReset hscript, (s.setScript rest).resetBlock_cleared, rfl, rfl, rfl, rfl⟩⟩

/-! ## Command issue (R250, R251) -/

/-- The operand checks of a command (R250); HUF_BUILD, RESET and the tokens have none. -/
def operandsLegal (s : State) : Instr → Bool
  | .eoEnc => s.olenLegal
  | .eoDec => s.inlenLegal
  | .hdrSer => s.olenLegal && s.ctLegal
  | .hdrDes => s.inlenLegal
  | .tokSer => s.olenLegal && s.ntokLegal && s.ctLegal
  | .tokDes => s.inlenLegal && s.ctLegal
  | .encode => s.olenLegal && s.ntokLegal
  | .decode => s.inlenLegal
  | _ => true

/-- Every command but RESET is issued with its operand checks (R250). -/
theorem exists_exec_eq_issue {i : Instr} (hreset : i ≠ .reset) (hlit : i ≠ .litTok) (hmatch : i ≠ .matchTok) :
    ∃ body, ∀ s, exec i s = issue (operandsLegal s i) body s := by
  cases i with
  | eoEnc => exact ⟨_, exec_eoEnc⟩
  | eoDec => exact ⟨_, exec_eoDec⟩
  | hufBuild => exact ⟨_, exec_hufBuild⟩
  | hdrSer => exact ⟨_, exec_hdrSer⟩
  | hdrDes => exact ⟨_, exec_hdrDes⟩
  | tokSer => exact ⟨_, exec_tokSer⟩
  | tokDes => exact ⟨_, exec_tokDes⟩
  | encode => exact ⟨_, exec_encode⟩
  | decode => exact ⟨_, exec_decode⟩
  | reset => exact absurd rfl hreset
  | litTok => exact absurd rfl hlit
  | matchTok => exact absurd rfl hmatch

theorem issue_of_fault {legal : Bool} {body : State → Except ErrKind State} {s : State} (hs : s.status = .fault) :
    issue legal body s = .next s := by
  rw [issue, hs]

/-- Settles O11: command issue ignores the command in FAULT. -/
theorem faultIgnoresEveryCommandButReset : Obligations.FaultIgnoresEveryCommandButReset := by
  intro i s hs hreset hlit hmatch
  obtain ⟨body, hbody⟩ := exists_exec_eq_issue hreset hlit hmatch
  rw [hbody, issue_of_fault hs]

/-! ## Illegal operands (R250, R277) -/

theorem ctLegal_eq_false {s : State} {k : Nat} {e : CtCell} (hk : k < Config.nsym) (he : s.ctEntry k = some e)
    (hlen : Config.cwMax < e.len.toNat) : s.ctLegal = false :=
  Bool.eq_false_of_not_eq_true fun h => Nat.not_le_of_gt hlen (ctLegal_iff.1 h k e hk he)

/-- Settles O16: in each of the four cases one of the operation's checks fails. -/
theorem illegalOperandsRaiseIllegalCommand : Obligations.IllegalOperandsRaiseIllegalCommand := by
  intro s i hs hbad
  have hillegal : operandsLegal s i = false ∧ i ≠ .reset ∧ i ≠ .litTok ∧ i ≠ .matchTok := by
    obtain ⟨hi, hinlen⟩ | ⟨hi, holen⟩ | ⟨hi, hntok⟩ | ⟨hi, k, e, hk, he, hlen⟩ := hbad
    · have hcheck : s.inlenLegal = false := decide_eq_false (Nat.not_le_of_gt hinlen)
      fin_cases hi <;> simp [operandsLegal, hcheck]
    · have hcheck : s.olenLegal = false := decide_eq_false (Nat.not_le_of_gt holen)
      fin_cases hi <;> simp [operandsLegal, hcheck]
    · have hcheck : s.ntokLegal = false := decide_eq_false (Nat.not_le_of_gt hntok)
      fin_cases hi <;> simp [operandsLegal, hcheck]
    · have hcheck := ctLegal_eq_false hk he hlen
      fin_cases hi <;> simp [operandsLegal, hcheck]
  obtain ⟨hlegal, hreset, hlit, hmatch⟩ := hillegal
  obtain ⟨body, hbody⟩ := exists_exec_eq_issue hreset hlit hmatch
  refine ⟨_, ?_, s.faultEntry_faulted .illegalCommand⟩
  rw [hbody, hlegal, issue_of_illegal hs]

end Sys2Proof.Machine
end

section
/-! SUPPORT. What leads out of FAULT and into it: a block in FAULT leaves it by a reset only (R282), and what an operation
that faults leaves behind is decided by the kind it raises and the host's side alone (R281). -/

namespace Sys2Proof.Machine

/-! ## The ways out of FAULT (R282) -/

/-- In FAULT a write to CMD that is answered changes nothing, unless it writes the word of RESET (R251). -/
theorem fetchCommand_fault {w : Byte} {s t : State} (hs : s.status = .fault)
    (h : runFetched (fetchCommand w s) = .next t) : t = s ∨ w = 0x0F := by
  cases hw : decodeCmd w with
  | error e =>
    rw [fetchCommand_fault_error hs hw] at h
    exact .inl (Host.Outcome.next.inj h).symm
  | ok i =>
    by_cases hreset : i = .reset
    · subst hreset
      exact .inr (InstrWord.command.inj (encodeInstr_of_decodeWord (w := .command w) hw)).symm
    · obtain ⟨hlit, hmatch⟩ := decodeCmd_not_token hw
      rw [fetchCommand_run (by simp [hs]) hw, runFetched_command hlit hmatch,
        faultIgnoresEveryCommandButReset i s hs hreset hlit hmatch] at h
      exact .inl (Host.Outcome.next.inj h).symm

/-- In FAULT a host action other than the reset input keeps STATUS and ERR, unless it writes RESET to CMD (R38, R251). -/
theorem fetchHost_fault {a : HostAct} (hreset : a ≠ .hwReset) {s t : State} (hs : s.status = .fault)
    (h : runFetched (fetchHost a s) = .next t) : (t.status = .fault ∧ t.err = s.err) ∨ a = .wrReg .cmd 0x0F := by
  by_cases hcmd : ∃ w, a = .wrReg .cmd w
  · obtain ⟨w, rfl⟩ := hcmd
    rw [fetchHost] at h
    split_ifs at h with hw
    · obtain rfl | hword := fetchCommand_fault hs h
      · exact .inl ⟨hs, rfl⟩
      · have hnat : w % 256 = 15 := congrArg BitVec.toNat hword
        rw [Nat.mod_eq_of_lt hw] at hnat
        exact .inr (by rw [hnat])
    · cases h
  · rw [fetchHost_access hreset (by simpa using hcmd)] at h
    have hframe := faultAccess_frame ((hostAccess_fault hs a).symm.trans h)
    exact .inl ⟨(congrArg State.status hframe :).trans hs, (congrArg State.err hframe :)⟩

/-- Settles O12: what a block in FAULT does next is the reset input, nothing, or a host action. -/
theorem onlyResetLeavesFault : Obligations.OnlyResetLeavesFault := by
  intro s t hs hstep
  rw [step_eq_runFetched] at hstep
  obtain ⟨rest, hscript, -⟩ | ⟨-, hbusy, -⟩ | ⟨-, -, hfetch⟩ | ⟨-, a, rest, hscript, hreset, hfetch⟩ := fetch_cases s
  · exact .inr (.inl ⟨rest, hscript⟩)
  · simp [hs] at hbusy
  · rw [hfetch] at hstep
    obtain rfl : s = t := Host.Outcome.next.inj hstep
    exact .inl ⟨hs, rfl⟩
  · rw [hfetch] at hstep
    obtain hkeeps | rfl := fetchHost_fault (s := s.setScript rest) hreset hs hstep
    · exact .inl hkeeps
    · exact .inr (.inr ⟨rest, hscript⟩)

/-! ## Fault entry (R281) -/

/-- What an instruction does behind its operand checks (R250); RESET raises nothing (R257). -/
def bodyOf : Instr → State → Except ErrKind State
  | .eoEnc => eoEncBody
  | .eoDec => eoDecBody
  | .hufBuild => hufBuild
  | .hdrSer => hdrSer
  | .hdrDes => hdrDesBody
  | .tokSer => tokSer
  | .tokDes => tokDesBody
  | .encode => encodeBody
  | .decode => decodeBody
  | .reset => fun s => .ok s.resetBlock
  | .litTok => litBody
  | .matchTok => matchBody

/-- The operand checks of an instruction, and then its body (R250). -/
def checkedBody (i : Instr) (s : State) : Except ErrKind State :=
  if operandsLegal s i then bodyOf i s else .error .illegalCommand

theorem settle_faulted_iff {s t : State} {r : Except ErrKind State} {k : ErrKind} :
    settle s r = t ∧ t.Faulted k ↔ r = .error k ∧ t = s.faultEntry k := by
  constructor
  · rintro ⟨rfl, hfault⟩
    cases r with
    | ok u => exact absurd hfault not_complete_faulted
    | error x =>
      obtain rfl := faultEntry_faulted_iff.1 hfault
      exact ⟨rfl, rfl⟩
  · rintro ⟨rfl, rfl⟩
    exact ⟨rfl, s.faultEntry_faulted k⟩

/-- A token that completes leaves STATUS alone, so it is in FAULT only where it raised a kind (R220, R222). -/
theorem settleToken_faulted_iff {s t : State} {r : Except ErrKind State} {k : ErrKind} (hs : s.status ≠ .fault)
    (hr : Ends (Expanded s) r) : settleToken s r = t ∧ t.Faulted k ↔ r = .error k ∧ t = s.faultEntry k := by
  cases r with
  | ok u =>
    obtain ⟨hstatus, -⟩ := Expanded.keeps hr
    refine iff_of_false ?_ (by simp)
    rintro ⟨rfl, hfault, -⟩
    exact hs (hstatus.symm.trans hfault)
  | error x => exact settle_faulted_iff (r := .error x)

/-- From READY an instruction ends in FAULT exactly where its checks or its body raise a kind, and then by fault entry from
the state it started in (R250, R281). -/
theorem exec_ready_faulted_iff {i : Instr} {s t : State} {k : ErrKind} (hs : s.status = .ready) :
    exec i s = .next t ∧ t.Faulted k ↔ checkedBody i s = .error k ∧ t = s.faultEntry k := by
  have hissue : ∀ legal body, issue legal body s = .next t ∧ t.Faulted k ↔
      (if legal then body s else .error .illegalCommand) = .error k ∧ t = s.faultEntry k := fun legal body => by
    rw [issue, hs, Host.Outcome.next.injEq]
    exact settle_faulted_iff
  have hfault : s.status ≠ .fault := by simp [hs]
  cases i with
  | litTok =>
    rw [exec_litTok, Host.Outcome.next.injEq]
    exact settleToken_faulted_iff hfault (litBody_ends s)
  | matchTok =>
    rw [exec_matchTok, Host.Outcome.next.injEq]
    exact settleToken_faulted_iff hfault (matchBody_ends s)
  | reset =>
    rw [exec_reset_of_not_busy (by simp [hs])]
    refine iff_of_false ?_ (by rintro ⟨⟨⟩, -⟩)
    rintro ⟨⟨⟩, hready, -⟩
    cases hready
  | _ => exact hissue _ _

/-- Fault entry reads the parameters and the model's own fields of the state it starts from, and nothing else (R281). -/
theorem faultEntry_eq_of_sameOutside {s s' : State} (h : SameOutside s s') (k : ErrKind) :
    s.faultEntry k = s'.faultEntry k := by
  obtain ⟨hpar, hscript, hrdata, hepoch, hdraws⟩ := h
  simp only [State.faultEntry, freeRegister, hpar, hscript, hrdata, hepoch, hdraws]

/-- Settles O14: both runs are the same fault entry. -/
theorem faultLeavesNoTraceOfTheData : Obligations.FaultLeavesNoTraceOfTheData := by
  intro i j s s' t t' hs hs' hsame hx hx' ht ht' herr
  obtain ⟨-, hend⟩ := (exec_ready_faulted_iff hs).1 ⟨hx, ht, rfl⟩
  obtain ⟨-, hend'⟩ := (exec_ready_faulted_iff hs').1 ⟨hx', ht', rfl⟩
  rw [hend, hend', herr, faultEntry_eq_of_sameOutside hsame]

end Sys2Proof.Machine
end

section
/-! SUPPORT. The table of R278: which kinds each part of an operation can raise, and a state that raises each kind of each
row. -/

namespace Sys2Proof.Machine

/-! ## The kinds a part can raise -/

/-- A part of an operation raises no kind but those of `ks`. -/
def RaisesOnly {α : Type} (ks : List ErrKind) : Except ErrKind α → Prop
  | .ok _ => True
  | .error k => k ∈ ks

@[simp] theorem raisesOnly_ok {α : Type} (ks : List ErrKind) (a : α) : RaisesOnly ks (.ok a) := trivial

@[simp] theorem raisesOnly_error {α : Type} {ks : List ErrKind} {k : ErrKind} :
    RaisesOnly ks (.error k : Except ErrKind α) ↔ k ∈ ks := Iff.rfl

theorem RaisesOnly.mem {α : Type} {ks : List ErrKind} {r : Except ErrKind α} {k : ErrKind} (h : RaisesOnly ks r)
    (hr : r = .error k) : k ∈ ks := by
  subst hr
  exact h

theorem RaisesOnly.mono {α : Type} {ks ks' : List ErrKind} {r : Except ErrKind α} (h : RaisesOnly ks r)
    (hks : ks ⊆ ks') : RaisesOnly ks' r := by
  cases r with
  | ok a => exact trivial
  | error k => exact hks h

theorem RaisesOnly.bind {α β : Type} {ks : List ErrKind} {r : Except ErrKind α} {f : α → Except ErrKind β}
    (h : RaisesOnly ks r) (hf : ∀ a, RaisesOnly ks (f a)) : RaisesOnly ks (r >>= f) := by
  cases r with
  | ok a => exact hf a
  | error k => exact h

/-! ## Encoding (R143, R173, R191, R212) -/

/-- The kinds of the encoding operations: a value without a code, and OBUF full (R273, R276). -/
abbrev encodeKinds : List ErrKind := [.invalidInput, .capacityExceeded]

theorem emit_raisesOnly (s : State) (b : Bits) : RaisesOnly encodeKinds (emit s b) := by
  rw [emit_eq]
  split_ifs <;> simp

theorem eoEmit_raisesOnly (s : State) (n : Nat) : RaisesOnly encodeKinds (eoEmit s n) := by
  rw [eoEmit]
  split_ifs
  · simp
  · exact emit_raisesOnly s _

theorem hufBuild_raisesOnly (s : State) : RaisesOnly [.invalidInput] (hufBuild s) := by
  rw [hufBuild]
  split <;> simp

theorem serEntry_raisesOnly (s : State) (k : Nat) (e : CtCell) : RaisesOnly encodeKinds (serEntry s k e) := by
  rw [serEntry_eq_bind]
  exact (emit_raisesOnly ..).bind fun _ => (eoEmit_raisesOnly ..).bind fun _ => emit_raisesOnly ..

theorem serEntries_raisesOnly (ks : List Nat) (s : State) : RaisesOnly encodeKinds (serEntries ks s) := by
  induction ks generalizing s with
  | nil => exact raisesOnly_ok _ s
  | cons k ks ih =>
    cases hk : s.ctEntry k with
    | none =>
      rw [serEntries_cons_none hk]
      exact ih s
    | some e =>
      rw [serEntries_cons_some hk]
      exact (serEntry_raisesOnly ..).bind ih

theorem hdrSer_raisesOnly (s : State) : RaisesOnly encodeKinds (hdrSer s) := by
  rw [hdrSer_eq_bind]
  exact (eoEmit_raisesOnly ..).bind (serEntries_raisesOnly _)

theorem serLit_raisesOnly (s : State) (v : Sym) : RaisesOnly encodeKinds (serLit s v) := by
  rw [serLit]
  split_ifs
  · simp
  · cases s.ctEntry (v.toNat - s.par.symMin) with
    | none => simp
    | some e => exact emit_raisesOnly ..

theorem serMatch_raisesOnly (s : State) (o l produced : Nat) : RaisesOnly encodeKinds (serMatch s o l produced) := by
  by_cases hok : 1 ≤ o ∧ 1 ≤ l ∧ o ≤ produced
  · obtain ⟨ho, hl, hreach⟩ := hok
    rw [serMatch_eq_bind ho hl hreach]
    exact (emit_raisesOnly ..).bind fun _ => (eoEmit_raisesOnly ..).bind fun _ => eoEmit_raisesOnly ..
  · simp [serMatch_of_bad hok]

theorem serToken_raisesOnly (s : State) (produced : Nat) (tok : Token) :
    RaisesOnly encodeKinds (serToken s produced tok) := by
  cases tok with
  | lit v => exact serLit_raisesOnly s v
  | mtch o l => exact serMatch_raisesOnly s o l produced

theorem serList_raisesOnly (ts : List Token) (produced : Nat) (s : State) :
    RaisesOnly encodeKinds (serList ts produced s) := by
  induction ts generalizing produced s with
  | nil => exact raisesOnly_ok _ s
  | cons tok ts ih => exact (serToken_raisesOnly ..).bind (ih _)

theorem tokSer_raisesOnly (s : State) : RaisesOnly encodeKinds (tokSer s) := by
  rw [tokSer_eq_bind]
  exact (eoEmit_raisesOnly ..).bind (serList_raisesOnly _ _)

theorem encodeBody_raisesOnly (s : State) : RaisesOnly encodeKinds (encodeBody s) := by
  rw [encodeBody_eq_bind]
  exact ((hufBuild_raisesOnly s).mono (by simp)).bind fun _ => (hdrSer_raisesOnly _).bind tokSer_raisesOnly

/-! ## Reading a header (R195) -/

/-- The kinds of HDR_DES (R271, R275, R276). -/
abbrev headerKinds : List ErrKind := [.malformedHeader, .boundsExceeded, .capacityExceeded]

theorem headerInt_raisesOnly (s : State) : RaisesOnly headerKinds (headerInt s) := by
  rw [headerInt]
  cases s.eoDecode s.cur <;> simp

theorem desCodeword_raisesOnly (s : State) (k l : Nat) : RaisesOnly headerKinds (desCodeword s k l) := by
  rw [desCodeword]
  split_ifs <;> simp

theorem desEntry_raisesOnly (s : State) : RaisesOnly headerKinds (desEntry s) := by
  rw [desEntry_eq_ite]
  split_ifs
  · simp
  · simp
  · simp
  · exact (headerInt_raisesOnly _).bind fun _ => desCodeword_raisesOnly ..

theorem desEntries_succ (n : Nat) (s : State) : desEntries (n + 1) s = desEntry s >>= desEntries n := by
  rw [desEntries]
  cases desEntry s <;> rfl

theorem desEntries_raisesOnly (n : Nat) (s : State) : RaisesOnly headerKinds (desEntries n s) := by
  induction n generalizing s with
  | zero => exact raisesOnly_ok _ s
  | succ n ih =>
    rw [desEntries_succ]
    exact (desEntry_raisesOnly s).bind ih

theorem hdrDes_raisesOnly (s : State) (p : Nat) : RaisesOnly headerKinds (hdrDes s p) := by
  rw [hdrDes_eq_bind]
  exact (headerInt_raisesOnly _).bind fun _ => desEntries_raisesOnly ..

theorem hdrDesBody_raisesOnly (s : State) : RaisesOnly headerKinds (hdrDesBody s) := by
  rw [hdrDesBody_eq_bind]
  exact (hdrDes_raisesOnly ..).bind fun _ => raisesOnly_ok ..

/-! ## Reading tokens (R148, R218, R220, R222) -/

/-- The kinds of an integer that is not a header's (R272, R275). -/
abbrev integerKinds : List ErrKind := [.malformedToken, .boundsExceeded]

/-- The kinds of LIT (R220, R241). -/
abbrev litKinds : List ErrKind := [.malformedToken, .capacityExceeded]

/-- The kinds of MATCH and of TOK_DES (R218, R222, R242). -/
abbrev tokenKinds : List ErrKind := [.malformedToken, .boundsExceeded, .capacityExceeded]

theorem eoDecBody_raisesOnly (s : State) : RaisesOnly integerKinds (eoDecBody s) := by
  rw [eoDecBody]
  cases s.eoDecode s.pos <;> simp

theorem readLit_raisesOnly (s : State) (c : Nat) : RaisesOnly litKinds (s.readLit c) := by
  rw [State.readLit, Sys2Proof.readLit]
  split <;> simp

theorem symAppend_raisesOnly (s : State) (v : Sym) : RaisesOnly litKinds (symAppend s v) := by
  rw [symAppend]
  split_ifs <;> simp

theorem litBody_raisesOnly (s : State) : RaisesOnly litKinds (litBody s) := by
  rw [litBody_eq_bind]
  exact (readLit_raisesOnly ..).bind fun _ => (symAppend_raisesOnly ..).bind fun _ => raisesOnly_ok ..

theorem readMatchInt_raisesOnly (s : State) (c : Nat) : RaisesOnly tokenKinds (s.readMatchInt c) := by
  rw [State.readMatchInt, Sys2Proof.readMatchInt]
  cases Sys2Proof.eoDecode s.par.eoMaxGroup s.inBit s.inlen c <;> simp

theorem readMatch_raisesOnly (s : State) (c : Nat) : RaisesOnly tokenKinds (s.readMatch c) := by
  rw [State.readMatch_eq_bind]
  exact (readMatchInt_raisesOnly ..).bind fun _ => (readMatchInt_raisesOnly ..).bind fun _ => raisesOnly_ok ..

theorem copyBack_raisesOnly (s : State) (o l : Nat) : RaisesOnly tokenKinds (copyBack s o l) := by
  rw [copyBack]
  split_ifs <;> simp

theorem matchBody_raisesOnly (s : State) : RaisesOnly tokenKinds (matchBody s) := by
  rw [matchBody_eq_bind]
  exact (readMatch_raisesOnly ..).bind fun _ => (copyBack_raisesOnly ..).bind fun _ => raisesOnly_ok ..

theorem tokenPass_raisesOnly (s : State) : RaisesOnly tokenKinds (tokenPass s) := by
  rw [tokenPass]
  split_ifs
  · simp
  · exact (litBody_raisesOnly _).mono (by simp)
  · exact matchBody_raisesOnly _

theorem tokenLoop_succ (n : Nat) (s : State) : tokenLoop (n + 1) s = tokenPass s >>= tokenLoop n := by
  rw [tokenLoop]
  cases tokenPass s <;> rfl

theorem tokenLoop_raisesOnly (n : Nat) (s : State) : RaisesOnly tokenKinds (tokenLoop n s) := by
  induction n generalizing s with
  | zero => exact raisesOnly_ok _ s
  | succ n ih =>
    rw [tokenLoop_succ]
    exact (tokenPass_raisesOnly s).bind ih

theorem tokDes_raisesOnly (s : State) (p : Nat) : RaisesOnly tokenKinds (tokDes s p) := by
  rw [tokDes_eq_bind]
  exact (readMatchInt_raisesOnly ..).bind fun _ => tokenLoop_raisesOnly ..

theorem tokDesBody_raisesOnly (s : State) : RaisesOnly tokenKinds (tokDesBody s) := by
  rw [tokDesBody_eq_bind]
  exact (tokDes_raisesOnly ..).bind fun _ => raisesOnly_ok ..

/-- DECODE raises what its two parts raise (R255). -/
theorem decodeBody_raisesOnly (s : State) : RaisesOnly (headerKinds ++ tokenKinds) (decodeBody s) := by
  rw [decodeBody_eq_bind]
  exact ((hdrDes_raisesOnly ..).mono (by simp)).bind fun _ =>
    ((tokDes_raisesOnly ..).mono (by simp)).bind fun _ => raisesOnly_ok ..

/-! ## No other kind is raised -/

theorem RaisesOnly.mayRaise {i : Instr} {ks : List ErrKind} {r : Except ErrKind State} {k : ErrKind}
    (h : RaisesOnly ks r) (hks : ∀ k ∈ ks, mayRaise i k = true) (hr : r = .error k) : mayRaise i k = true :=
  hks k (h.mem hr)

/-- The kinds of every body are in its instruction's row (R278). -/
theorem mayRaise_of_bodyOf {i : Instr} {s : State} {k : ErrKind} (h : bodyOf i s = .error k) : mayRaise i k = true := by
  cases i with
  | eoEnc => exact (eoEmit_raisesOnly s _).mayRaise (by decide) h
  | eoDec => exact (eoDecBody_raisesOnly s).mayRaise (by decide) h
  | hufBuild => exact (hufBuild_raisesOnly s).mayRaise (by decide) h
  | hdrSer => exact (hdrSer_raisesOnly s).mayRaise (by decide) h
  | hdrDes => exact (hdrDesBody_raisesOnly s).mayRaise (by decide) h
  | tokSer => exact (tokSer_raisesOnly s).mayRaise (by decide) h
  | tokDes => exact (tokDesBody_raisesOnly s).mayRaise (by decide) h
  | encode => exact (encodeBody_raisesOnly s).mayRaise (by decide) h
  | decode => exact (decodeBody_raisesOnly s).mayRaise (by decide) h
  | reset => cases h
  | litTok => exact (litBody_raisesOnly s).mayRaise (by decide) h
  | matchTok => exact (matchBody_raisesOnly s).mayRaise (by decide) h

/-- From READY only the kinds of its row are raised; an instruction with operand checks may raise IllegalCommand (R277). -/
theorem mayRaise_of_checkedBody {i : Instr} {s : State} {k : ErrKind} (h : checkedBody i s = .error k) :
    mayRaise i k = true := by
  rw [checkedBody] at h
  split_ifs at h with hlegal
  · exact mayRaise_of_bodyOf h
  · obtain rfl := Except.error.inj h
    cases i with
    | hufBuild | reset | litTok | matchTok => exact absurd rfl hlegal
    | _ => rfl

/-! ## A state for every cell of the table -/

/-- The instruction raises the kind from some state in READY that keeps the invariant. -/
abbrev CanRaise (i : Instr) (k : ErrKind) : Prop :=
  ∃ s t : State, s.Inv ∧ s.status = .ready ∧ exec i s = .next t ∧ t.Faulted k

/-- In READY the kind of the operand checks or of the body is raised (R250, R281). -/
theorem canRaise_of_checkedBody {i : Instr} {k : ErrKind} {s : State} (hinv : s.Inv) (hs : s.status = .ready)
    (h : checkedBody i s = .error k) : CanRaise i k := by
  obtain ⟨hrun, hfault⟩ := (exec_ready_faulted_iff hs).2 ⟨h, rfl⟩
  exact ⟨s, s.faultEntry k, hinv, hs, hrun, hfault⟩

theorem reset_sound : State.reset.Sound := invariantHoldsAtReset.sound (by decide)

/-- INLEN and OLEN one above their capacities (R35). -/
def overCapacity : State :=
  { State.reset with inlen := State.reset.par.inMax + 1, olen := State.reset.par.obMax + 1 }

theorem overCapacity_inv : overCapacity.Inv :=
  State.Sound.inv_of_done { reset_sound with inlen := by decide, olen := by decide } ⟨rfl, rfl, rfl, rfl⟩

/-- No room in OBUF, and something to write for each encoding operation: a VAL, a token, a count, a table entry. -/
def fullObuf : State :=
  { State.reset with
    val := 1, olen := State.reset.par.obMax, ntok := 1, freq := [(0, 1)], ct := [(0, CtCell.ofCw [true])] }

theorem fullObuf_inv : fullObuf.Inv :=
  State.Sound.inv_of_done
    { reset_sound with
      val := by decide, olen := by decide, ntok := by decide, freq := by decide, ct := by decide,
      freq_ne_zero := by decide } ⟨rfl, rfl, rfl, rfl⟩

/-- The reset state but for the bits `b` in IBUF. -/
def inputOf (b : Bits) : State := { State.reset with ibuf := Mem.writeSeq [] 0 b, inlen := b.length }

theorem inputOf_sound {b : Bits} (h : b.length ≤ State.reset.par.inMax) : (inputOf b).Sound := by
  have hcells : 0 + b.length ≤ State.reset.par.inMax := by omega
  have hinlen : b.length < 2 ^ State.reset.par.curw := h.trans_lt (by decide)
  exact { reset_sound with inlen := hinlen, ibuf := Mem.wf_writeSeq (Mem.wf_nil _) hcells }

theorem inputOf_inv {b : Bits} (h : b.length ≤ State.reset.par.inMax) : (inputOf b).Inv :=
  (inputOf_sound h).inv_of_done ⟨rfl, rfl, rfl, rfl⟩

/-- Length groups of which the last one is longer than EO_MAX_GROUP, where each decoding operation reads its first integer
(R147). -/
def overlongGroups : State := inputOf (lengthGroups (2 ^ State.reset.par.eoMaxGroup))

theorem overlongGroups_inv : overlongGroups.Inv := inputOf_inv (by decide)

/-- A header of one entry, and nothing behind it. -/
def headerAlone : State := inputOf (headerBits State.reset.par.symMin [(0, [true])])

theorem headerAlone_inv : headerAlone.Inv := inputOf_inv (by decide)

/-- A header whose one entry declares a codeword longer than CW_MAX. -/
def longCodeword : State :=
  inputOf (eoCode 1 ++ binN Config.symw State.reset.par.symMin ++ eoCode (Config.cwMax + 1))

theorem longCodeword_inv : longCodeword.Inv := inputOf_inv (by decide)

/-- OUT is full. At cell 0 stand the offset and the length of a match, whose first bit is a codeword too; at POS stands a
body of a literal and a match that is one symbol too long. -/
def fullOut : State :=
  { inputOf (eoCode 1 ++ eoCode 1 ++
      (eoCode 2 ++ [true, true] ++ (false :: (eoCode 1 ++ eoCode State.reset.par.outMax)))) with
    pos := 2, outlen := State.reset.par.outMax, ct := [(0, CtCell.ofCw [true])] }

theorem fullOut_inv : fullOut.Inv :=
  State.Sound.inv_of_done { inputOf_sound (by decide) with pos := by decide, outlen := le_rfl, ct := by decide }
    ⟨rfl, rfl, rfl, rfl⟩

/-! ## Every kind of a row is raised -/

/-- Every operation with operands uses INLEN or OLEN (R250, R277). -/
theorem canRaise_illegalCommand {i : Instr} (h : mayRaise i .illegalCommand = true) : CanRaise i .illegalCommand := by
  cases i with
  | hufBuild | reset | litTok | matchTok => cases h
  | _ => exact canRaise_of_checkedBody overCapacity_inv rfl rfl

/-- After reset there is nothing to encode: VAL and NTOK are 0, no symbol is counted, and no entry is valid (R273). -/
theorem canRaise_invalidInput {i : Instr} (h : mayRaise i .invalidInput = true) : CanRaise i .invalidInput := by
  cases i with
  | eoEnc | hufBuild | hdrSer | tokSer | encode => exact canRaise_of_checkedBody invariantHoldsAtReset rfl rfl
  | _ => cases h

/-- After reset there is no header to read either: INLEN is 0 (R271). -/
theorem canRaise_malformedHeader {i : Instr} (h : mayRaise i .malformedHeader = true) : CanRaise i .malformedHeader := by
  cases i with
  | hdrDes | decode => exact canRaise_of_checkedBody invariantHoldsAtReset rfl rfl
  | _ => cases h

/-- DECODE comes to its first token behind a header only (R255, R272). -/
theorem canRaise_malformedToken {i : Instr} (h : mayRaise i .malformedToken = true) : CanRaise i .malformedToken := by
  cases i with
  | eoDec | tokDes | litTok | matchTok => exact canRaise_of_checkedBody invariantHoldsAtReset rfl rfl
  | decode => exact canRaise_of_checkedBody headerAlone_inv rfl rfl
  | _ => cases h

/-- Every decoding operation but LIT reads an integer first (R275). -/
theorem canRaise_boundsExceeded {i : Instr} (h : mayRaise i .boundsExceeded = true) : CanRaise i .boundsExceeded := by
  cases i with
  | eoDec | hdrDes | tokDes | decode | matchTok => exact canRaise_of_checkedBody overlongGroups_inv rfl rfl
  | _ => cases h

/-- What is full is OBUF, the codeword field of CT, or OUT (R276). -/
theorem canRaise_capacityExceeded {i : Instr} (h : mayRaise i .capacityExceeded = true) :
    CanRaise i .capacityExceeded := by
  cases i with
  | eoEnc | hdrSer | tokSer | encode => exact canRaise_of_checkedBody fullObuf_inv rfl rfl
  | hdrDes | decode => exact canRaise_of_checkedBody longCodeword_inv rfl rfl
  | tokDes | litTok | matchTok => exact canRaise_of_checkedBody fullOut_inv rfl rfl
  | _ => cases h

/-- Settles O15: the kinds of the operand checks and of the body are in the row; each cell of the table has its state;
and a reserved word does not decode. -/
theorem operationsRaiseExactlyTheirKinds : Obligations.OperationsRaiseExactlyTheirKinds := by
  refine ⟨fun i s t hs hx ht => ?_, fun i k h => ?_, fun s w rest hs hw hscript hreserved => ?_⟩
  · obtain ⟨hraise, -⟩ := (exec_ready_faulted_iff hs).1 ⟨hx, ht, rfl⟩
    exact mayRaise_of_checkedBody hraise
  · cases k with
    | none => cases i <;> cases h
    | malformedHeader => exact canRaise_malformedHeader h
    | malformedToken => exact canRaise_malformedToken h
    | invalidInput => exact canRaise_invalidInput h
    | boundsExceeded => exact canRaise_boundsExceeded h
    | capacityExceeded => exact canRaise_capacityExceeded h
    | illegalCommand => exact canRaise_illegalCommand h
  · obtain ⟨hready, -⟩ := reservedCommandWordsRaiseIllegalCommand s w rest hw hscript hreserved
    obtain ⟨t, hstep, hfault, -⟩ := hready hs
    exact ⟨t, hstep, hfault⟩

end Sys2Proof.Machine
end

section
/-! SUPPORT. Runs of one operation from two blocks side by side (R302): how they end alike, and which operand checks they
share; with nothing pending the block waits (R301). -/

namespace Sys2Proof.Machine

/-! ## Waiting (R301) -/

/-- Settles O9: of what `fetch` can do, only waiting is left. -/
theorem blockWaitsWithoutHostAction : Obligations.BlockWaitsWithoutHostAction := by
  intro s hs hscript
  rw [step_eq_runFetched]
  obtain ⟨rest, hreset, -⟩ | ⟨-, hbusy, -⟩ | ⟨-, -, hfetch⟩ | ⟨-, a, rest, hact, -⟩ := fetch_cases s
  · simp [hscript] at hreset
  · exact absurd hbusy hs
  · rw [hfetch, runFetched]
  · simp [hscript] at hact

/-! ## Two runs that end alike -/

/-- Both runs raise the same kind, or both end with results of which `R` holds. -/
def EndsAlike {α : Type} (R : α → α → Prop) : Except ErrKind α → Except ErrKind α → Prop
  | .ok a, .ok a' => R a a'
  | .error k, .error k' => k = k'
  | _, _ => False

theorem endsAlike_self {α : Type} (r : Except ErrKind α) : EndsAlike (fun a a' => a = a' ∧ r = .ok a) r r := by
  cases r with
  | ok a => exact ⟨rfl, rfl⟩
  | error k => exact rfl

theorem EndsAlike.bind {α β : Type} {R : α → α → Prop} {Q : β → β → Prop} {r r' : Except ErrKind α}
    {f f' : α → Except ErrKind β} (h : EndsAlike R r r') (hf : ∀ a a', R a a' → EndsAlike Q (f a) (f' a')) :
    EndsAlike Q (r >>= f) (r' >>= f') := by
  cases r <;> cases r'
  case ok.ok a a' => exact hf a a' h
  case error.error k k' => exact h
  all_goals exact h.elim

theorem EndsAlike.mono {α : Type} {R Q : α → α → Prop} {r r' : Except ErrKind α} (h : EndsAlike R r r')
    (hRQ : ∀ a a', R a a' → Q a a') : EndsAlike Q r r' := by
  cases r <;> cases r'
  case ok.ok a a' => exact hRQ a a' h
  case error.error k k' => exact h
  all_goals exact h.elim

/-- What both runs have by themselves can be added to what holds between them. -/
theorem EndsAlike.and_ends {α : Type} {R : α → α → Prop} {P P' : α → Prop} {r r' : Except ErrKind α}
    (h : EndsAlike R r r') (hr : Ends P r) (hr' : Ends P' r') : EndsAlike (fun a a' => R a a' ∧ P a ∧ P' a') r r' := by
  cases r <;> cases r'
  case ok.ok a a' => exact ⟨h, hr, hr'⟩
  case error.error k k' => exact h
  all_goals exact h.elim

/-- Settled, runs that end alike have the same STATUS and ERR (R250, R281); what holds of their results and does not look
at what completing writes holds where they completed. -/
theorem EndsAlike.settle {R : State → State → Prop} {r r' : Except ErrKind State} (s s' : State)
    (h : EndsAlike R r r') (hR : ∀ u u', R u u' → R u.complete u'.complete) :
    (settle s r).status = (settle s' r').status ∧ (settle s r).err = (settle s' r').err ∧
      ((settle s r).status = .ready → R (settle s r) (settle s' r')) := by
  cases r <;> cases r'
  case ok.ok u u' => exact ⟨rfl, rfl, fun _ => hR u u' h⟩
  case error.error k k' => exact ⟨rfl, h, nofun⟩
  all_goals exact h.elim

/-! ## The operand checks -/

/-- From READY a command is its checks and its body, settled (R250). -/
theorem exec_ready_eq_settle {i : Instr} (hreset : i ≠ .reset) (hlit : i ≠ .litTok) (hmatch : i ≠ .matchTok) {s : State}
    (hs : s.status = .ready) : exec i s = .next (settle s (checkedBody i s)) := by
  have hissue : ∀ legal body, issue legal body s =
      .next (settle s (if legal then body s else .error .illegalCommand)) := fun legal body => by rw [issue, hs]
  cases i with
  | reset => exact absurd rfl hreset
  | litTok => exact absurd rfl hlit
  | matchTok => exact absurd rfl hmatch
  | _ => exact hissue _ _

/-- Which entries of CT are legal is read off the valid entries with their codewords (R46). -/
theorem ctLegal_of_ctTable_eq {s s' : State} (h : s.ctTable = s'.ctTable) : s.ctLegal = s'.ctLegal := by
  refine Bool.eq_iff_iff.2 ⟨fun hct => ctLegal_of_ctTable fun e he => ?_, fun hct => ctLegal_of_ctTable fun e he => ?_⟩
  · exact (ctTable_fits hct e (h ▸ he)).2
  · exact (ctTable_fits hct e (h ▸ he)).2

/-- Blocks that agree on what a command reads agree on its operand checks (R250). -/
theorem SameRead.operandsLegal_eq {i : Instr} {s s' : State} (h : SameRead i s s') :
    operandsLegal s i = operandsLegal s' i := by
  obtain ⟨hpar, hin, -, holen, htok, -, hct⟩ := h
  have hinlen : i ∈ [Instr.eoDec, .hdrDes, .tokDes, .decode] → s.inlenLegal = s'.inlenLegal := fun hi => by
    obtain ⟨-, hinlen, -⟩ := hin hi
    rw [State.inlenLegal, State.inlenLegal, hpar, hinlen]
  have holen : i ∈ [Instr.eoEnc, .hdrSer, .tokSer, .encode] → s.olenLegal = s'.olenLegal := fun hi => by
    rw [State.olenLegal, State.olenLegal, hpar, holen hi]
  have hntok : i ∈ [Instr.tokSer, .encode] → s.ntokLegal = s'.ntokLegal := fun hi => by
    obtain ⟨hntok, -⟩ := htok hi
    rw [State.ntokLegal, State.ntokLegal, hpar, hntok]
  have hct : i ∈ [Instr.hdrSer, .tokSer, .tokDes] → s.ctLegal = s'.ctLegal := fun hi => ctLegal_of_ctTable_eq (hct hi)
  cases i <;> simp_all [operandsLegal]

end Sys2Proof.Machine
end

section
/-! SUPPORT. Appending from two blocks side by side (R302): an operation that appends looks at the parameters, OLEN and the
table, and appends the same bits wherever these are the same. -/

namespace Sys2Proof.Machine

/-! ## Appends of the same bits (R79) -/

/-- The bits `b` written from OLEN on, and OLEN moved past them (R79). -/
def State.appended (s : State) (b : Bits) : State := (s.setObuf (Mem.writeSeq s.obuf s.olen b)).setOlen (s.olen + b.length)

theorem emit_eq_appended (s : State) (b : Bits) :
    emit s b = if s.olen + b.length ≤ s.par.obMax then .ok (s.appended b) else .error .capacityExceeded := emit_eq s b

theorem appended_append (s : State) (a b : Bits) : (s.appended a).appended b = s.appended (a ++ b) := by
  simp [State.appended, writeSeq_append, State.setObuf, State.setOlen, Nat.add_assoc]

theorem appendedBits_appended (s : State) (b : Bits) : AppendedBits s (s.appended b) b := appendedBits_writeSeq s b

/-- From `s` to `t` and from `s'` to `t'` the same bits were appended to OBUF. -/
def AppendedAlike (s s' t t' : State) : Prop := ∃ b, t = s.appended b ∧ t' = s'.appended b

theorem AppendedAlike.refl (s s' : State) : AppendedAlike s s' s s' := ⟨[], rfl, rfl⟩

theorem AppendedAlike.trans {s s' t t' u u' : State} (h : AppendedAlike s s' t t') (h' : AppendedAlike t t' u u') :
    AppendedAlike s s' u u' := by
  obtain ⟨a, rfl, rfl⟩ := h
  obtain ⟨b, rfl, rfl⟩ := h'
  exact ⟨a ++ b, appended_append s a b, appended_append s' a b⟩

/-- Two blocks agree on what an operation that appends looks at. -/
structure SameWriter (s s' : State) : Prop where
  par : s.par = s'.par
  olen : s.olen = s'.olen
  table : s.ctTable = s'.ctTable

theorem SameWriter.appended {s s' t t' : State} (h : SameWriter s s') (ht : AppendedAlike s s' t t') : SameWriter t t' := by
  obtain ⟨b, rfl, rfl⟩ := ht
  exact ⟨h.par, congrArg (· + b.length) h.olen, h.table⟩

/-- The cells appended to hold the same bits in both blocks. -/
theorem AppendedAlike.obuf {s s' t t' : State} (h : AppendedAlike s s' t t') (holen : s.olen = s'.olen) :
    t.olen = t'.olen ∧ ∀ a, s.olen ≤ a → a < t.olen → Mem.read t.obuf a = Mem.read t'.obuf a := by
  obtain ⟨b, rfl, rfl⟩ := h
  obtain ⟨hlen, hread, -⟩ := appendedBits_appended s b
  obtain ⟨hlen', hread', -⟩ := appendedBits_appended s' b
  refine ⟨hlen.trans ((congrArg (· + b.length) holen).trans hlen'.symm), fun a ha hend => ?_⟩
  obtain ⟨j, rfl⟩ := Nat.exists_eq_add_of_le ha
  have hj : j < b.length := Nat.lt_of_add_lt_add_left (hend.trans_eq hlen)
  have hread' := hread' j hj
  rw [← holen] at hread'
  exact (hread j hj).trans hread'.symm

/-- The capacity test looks at the parameters and OLEN only (R79). -/
theorem emit_alike {s s' : State} (hpar : s.par = s'.par) (holen : s.olen = s'.olen) (b : Bits) :
    EndsAlike (AppendedAlike s s') (emit s b) (emit s' b) := by
  rw [emit_eq_appended, emit_eq_appended, ← holen, ← hpar]
  split_ifs
  · exact ⟨b, rfl, rfl⟩
  · rfl

theorem eoEmit_alike {s s' : State} (hpar : s.par = s'.par) (holen : s.olen = s'.olen) (n : Nat) :
    EndsAlike (AppendedAlike s s') (eoEmit s n) (eoEmit s' n) := by
  rw [eoEmit, eoEmit]
  split_ifs
  · rfl
  · exact emit_alike hpar holen (eoCode n)

/-! ## Functions that append the same bits wherever they look at the same -/

/-- Run from two blocks that agree on what it looks at, `f` appends the same bits or raises the same kind. -/
abbrev WritesAlike (f : State → Except ErrKind State) : Prop :=
  ∀ s s', SameWriter s s' → EndsAlike (AppendedAlike s s') (f s) (f s')

theorem EndsAlike.bind_writes {s s' : State} {r r' : Except ErrKind State} {g : State → Except ErrKind State}
    (h : EndsAlike (AppendedAlike s s') r r') (hs : SameWriter s s') (hg : WritesAlike g) :
    EndsAlike (AppendedAlike s s') (r >>= g) (r' >>= g) :=
  h.bind fun t t' ht => (hg t t' (hs.appended ht)).mono fun _ _ hu => ht.trans hu

theorem WritesAlike.bind {f g : State → Except ErrKind State} (hf : WritesAlike f) (hg : WritesAlike g) :
    WritesAlike fun s => f s >>= g := fun s s' hs => (hf s s' hs).bind_writes hs hg

theorem writesAlike_ok : WritesAlike .ok := fun s s' _ => AppendedAlike.refl s s'

theorem writesAlike_error (k : ErrKind) : WritesAlike fun _ => .error k := fun _ _ _ => rfl

theorem emit_writesAlike (b : Bits) : WritesAlike fun s => emit s b := fun _ _ hs => emit_alike hs.par hs.olen b

theorem eoEmit_writesAlike (n : Nat) : WritesAlike fun s => eoEmit s n := fun _ _ hs => eoEmit_alike hs.par hs.olen n

/-! ## The header (R191) -/

/-- Blocks with the same table have the same codeword, or none, for every symbol of the alphabet (R46). -/
theorem SameWriter.cw_eq {s s' : State} (h : SameWriter s s') {k : Nat} (hk : k < Config.nsym) :
    (s.ctEntry k).map CtCell.cw = (s'.ctEntry k).map CtCell.cw := by
  rw [← tableLookup_ctTable hk, ← tableLookup_ctTable hk, h.table]

theorem serEntry_alike {s s' : State} (hs : SameWriter s s') (k : Nat) {e e' : CtCell} (hcw : e.cw = e'.cw) :
    EndsAlike (AppendedAlike s s') (serEntry s k e) (serEntry s' k e') := by
  rw [serEntry_eq_bind, serEntry_eq_bind, ← length_cw, ← length_cw, hcw, hs.par]
  exact (emit_writesAlike _ s s' hs).bind_writes hs ((eoEmit_writesAlike _).bind (emit_writesAlike _))

theorem serEntries_writesAlike {ks : List Nat} (hks : ∀ k ∈ ks, k < Config.nsym) : WritesAlike (serEntries ks) := by
  induction ks with
  | nil => exact writesAlike_ok
  | cons k ks ih =>
    intro s s' hs
    obtain ⟨hk, hks⟩ := List.forall_mem_cons.1 hks
    have hcw := hs.cw_eq hk
    cases he : s.ctEntry k <;> cases he' : s'.ctEntry k <;> rw [he, he'] at hcw
    case none.none =>
      rw [serEntries_cons_none he, serEntries_cons_none he']
      exact ih hks s s' hs
    case some.some e e' =>
      rw [serEntries_cons_some he, serEntries_cons_some he']
      exact (serEntry_alike hs k (Option.some.inj hcw)).bind_writes hs (ih hks)
    all_goals cases hcw

theorem hdrSer_writesAlike : WritesAlike hdrSer := by
  intro s s' hs
  rw [hdrSer_eq_bind, hdrSer_eq_bind, ← length_ctTable, ← length_ctTable, hs.table]
  exact (eoEmit_writesAlike _ s s' hs).bind_writes hs (serEntries_writesAlike fun k hk => List.mem_range.1 hk)

/-! ## The body (R212) -/

theorem serLit_writesAlike (v : Sym) : WritesAlike fun s => serLit s v := by
  intro s s' hs
  simp only [serLit, ← hs.par]
  split_ifs with hsym
  · rfl
  · have hcw := hs.cw_eq (Params.entry_lt_nsym (p := s.par) (s := v.toNat) (by simpa using hsym))
    cases he : s.ctEntry (v.toNat - s.par.symMin) <;> cases he' : s'.ctEntry (v.toNat - s.par.symMin) <;>
      rw [he, he'] at hcw
    case none.none => rfl
    case some.some e e' =>
      dsimp only
      rw [Option.some.inj hcw]
      exact emit_writesAlike _ s s' hs
    all_goals cases hcw

theorem serMatch_writesAlike (o l produced : Nat) : WritesAlike fun s => serMatch s o l produced := by
  by_cases h : 1 ≤ o ∧ 1 ≤ l ∧ o ≤ produced
  · obtain ⟨ho, hl, hreach⟩ := h
    simp only [serMatch_eq_bind ho hl hreach]
    exact (emit_writesAlike _).bind ((eoEmit_writesAlike o).bind (eoEmit_writesAlike l))
  · simp only [serMatch_of_bad h]
    exact writesAlike_error .invalidInput

theorem serToken_writesAlike (produced : Nat) (tok : Token) : WritesAlike fun s => serToken s produced tok := by
  cases tok with
  | lit v => exact serLit_writesAlike v
  | mtch o l => exact serMatch_writesAlike o l produced

theorem serList_writesAlike (ts : List Token) (produced : Nat) : WritesAlike (serList ts produced) := by
  induction ts generalizing produced with
  | nil => exact writesAlike_ok
  | cons tok ts ih => exact (serToken_writesAlike produced tok).bind (ih _)

theorem tokSer_alike {s s' : State} (hs : SameWriter s s') (hntok : s.ntok = s'.ntok) (htokens : s.tokens = s'.tokens) :
    EndsAlike (AppendedAlike s s') (tokSer s) (tokSer s') := by
  rw [tokSer_eq_bind, tokSer_eq_bind, hntok, htokens]
  exact (eoEmit_writesAlike _ s s' hs).bind_writes hs (serList_writesAlike _ 0)

/-! ## ENCODE (R253) -/

/-- Blocks with the same counts are given the same table (R173). -/
theorem hufBuild_alike {s s' : State} (h : ∀ k, k < Config.nsym → s.freqCell k = s'.freqCell k) :
    EndsAlike (fun v v' => ∃ m, v = s.replaceCt m ∧ v' = s'.replaceCt m) (hufBuild s) (hufBuild s') := by
  have hleaves : initialLeaves s = initialLeaves s' :=
    List.filterMap_congr fun k hk => by rw [h k (List.mem_range.1 hk)]
  rw [hufBuild, hufBuild, hleaves]
  cases buildTree (initialLeaves s').length (initialLeaves s') with
  | none => rfl
  | some root => exact ⟨_, rfl, rfl⟩

/-- The table built is the same, so its header and the body under it are (R253). -/
theorem encodeBody_alike {s s' : State} (hpar : s.par = s'.par) (holen : s.olen = s'.olen) (hntok : s.ntok = s'.ntok)
    (htokens : s.tokens = s'.tokens) (hfreq : ∀ k, k < Config.nsym → s.freqCell k = s'.freqCell k) :
    EndsAlike (fun u u' => ∃ m, AppendedAlike (s.replaceCt m) (s'.replaceCt m) u u') (encodeBody s) (encodeBody s') := by
  rw [encodeBody_eq_bind, encodeBody_eq_bind]
  refine (hufBuild_alike hfreq).bind ?_
  rintro _ _ ⟨m, rfl, rfl⟩
  have hv : SameWriter (s.replaceCt m) (s'.replaceCt m) := ⟨hpar, holen, ctTable_congr rfl⟩
  refine (hdrSer_writesAlike _ _ hv).bind fun w w' hw => ?_
  have hw' := hv.appended hw
  obtain ⟨b, rfl, rfl⟩ := id hw
  exact (tokSer_alike hw' hntok htokens).mono fun u u' hu => ⟨m, hw.trans hu⟩

end Sys2Proof.Machine
end

section
/-! SUPPORT. Reading from two blocks side by side (R302): nothing at or above INLEN is looked at (R76), so a header gives the
same table and a body the same output, whatever OUT held. -/

namespace Sys2Proof

/-! ## A bit source is read below its length only (R76) -/

section
variable {len : Nat} {bit bit' : Nat → Bool} (h : ∀ a, a < len → bit a = bit' a)
include h

theorem inSeq_eq_of_avail {c n : Nat} (havail : c + n ≤ len) : inSeq bit c n = inSeq bit' c n :=
  inSeq_congr fun i _ hi => h i (by omega)

theorem eoDecodeLoop_congr (maxGroup p fuel : Nat) {r : Nat} (hr : 1 ≤ r) (c : Nat) :
    eoDecodeLoop maxGroup bit len p fuel r c = eoDecodeLoop maxGroup bit' len p fuel r c := by
  induction fuel generalizing r c with
  | zero => rfl
  | succ fuel ih =>
    rw [eoDecodeLoop, eoDecodeLoop]
    by_cases havail : c + r ≤ len
    · dsimp only
      rw [inBits, inBits, inSeq_eq_of_avail h havail, h c (by omega), ih (Nat.le_add_left 1 _)]
    · have hshort : avail len c r = false := decide_eq_false havail
      rw [if_pos hshort, if_pos hshort]

theorem eoDecode_congr (maxGroup p : Nat) : eoDecode maxGroup bit len p = eoDecode maxGroup bit' len p :=
  eoDecodeLoop_congr h maxGroup p _ le_rfl p

theorem codewordMatches_congr (table : List (Nat × Bits)) (cur : Nat) :
    codewordMatches table bit len cur = codewordMatches table bit' len cur := by
  refine List.filter_congr fun e _ => ?_
  by_cases havail : cur + e.2.length ≤ len
  · rw [inSeq_eq_of_avail h havail]
  · have hshort : avail len cur e.2.length = false := decide_eq_false havail
    rw [hshort, Bool.false_and, Bool.false_and]

end

namespace Machine

/-- Two blocks hold the same data below the same INLEN (R35). -/
structure SameData (s s' : State) : Prop where
  par : s.par = s'.par
  inlen : s.inlen = s'.inlen
  bits : ∀ a, a < s.inlen → s.inBit a = s'.inBit a

namespace SameData

section
variable {s s' : State} (h : SameData s s')
include h

theorem avail_eq (c n : Nat) : s.avail c n = s'.avail c n := by rw [State.avail, State.avail, h.inlen]

theorem inSeq_eq {c n : Nat} (havail : s.avail c n ≠ false) : s.inSeq c n = s'.inSeq c n :=
  inSeq_eq_of_avail h.bits (avail_iff.1 (Bool.eq_true_of_not_eq_false havail))

theorem inBits_eq {c n : Nat} (havail : s.avail c n ≠ false) : s.inBits c n = s'.inBits c n :=
  congrArg Sys2Proof.val (h.inSeq_eq havail)

theorem eoDecode_eq (c : Nat) : s.eoDecode c = s'.eoDecode c := by
  rw [State.eoDecode, State.eoDecode, ← h.par, ← h.inlen]
  exact eoDecode_congr h.bits _ c

theorem readMatchInt_eq (c : Nat) : s.readMatchInt c = s'.readMatchInt c := by
  unfold State.readMatchInt Sys2Proof.readMatchInt
  rw [← h.par, ← h.inlen, eoDecode_congr h.bits]

theorem readMatch_eq (c : Nat) : s.readMatch c = s'.readMatch c := by
  simp only [State.readMatch_eq_bind, h.readMatchInt_eq]

theorem readLit_eq (htable : s.ctTable = s'.ctTable) (c : Nat) : s.readLit c = s'.readLit c := by
  unfold State.readLit Sys2Proof.readLit
  rw [← h.par, ← h.inlen, ← htable, codewordMatches_congr h.bits]

theorem decodeToken_eq (htable : s.ctTable = s'.ctTable) (c : Nat) : s.decodeToken c = s'.decodeToken c := by
  rw [State.decodeToken_eq, State.decodeToken_eq, ← h.avail_eq, h.readLit_eq htable, h.readMatch_eq]
  by_cases havail : s.avail c 1 = false
  · rw [if_pos havail, if_pos havail]
  · have hlt : c < s.inlen := avail_iff.1 (Bool.eq_true_of_not_eq_false havail)
    rw [h.bits c hlt]

end

end SameData

/-! ## EO_DEC (R148) -/

theorem eoDecBody_alike {s s' : State} (h : SameData s s') (hpos : s.pos = s'.pos) :
    EndsAlike (fun t t' => t.nbits = t'.nbits ∧ t.val = t'.val) (eoDecBody s) (eoDecBody s') := by
  rw [eoDecBody, eoDecBody, ← hpos, ← h.eoDecode_eq]
  cases s.eoDecode s.pos with
  | value n k => exact ⟨rfl, rfl⟩
  | truncated => rfl
  | boundsExceeded => rfl

/-! ## Reading a header (R195) -/

/-- Two blocks have read the same entries of the same header, and stand at the same bit of it. -/
structure SameHeader (s s' : State) : Prop where
  data : SameData s s'
  cur : s.cur = s'.cur
  ct : s.ct = s'.ct

theorem SameHeader.setCur {s s' : State} (h : SameHeader s s') (c : Nat) : SameHeader (s.setCur c) (s'.setCur c) :=
  ⟨⟨h.data.par, h.data.inlen, h.data.bits⟩, rfl, h.ct⟩

theorem headerInt_alike {s s' : State} (h : SameHeader s s') :
    EndsAlike (fun r r' => r.1 = r'.1 ∧ SameHeader r.2 r'.2) (headerInt s) (headerInt s') := by
  rw [headerInt, headerInt, ← h.cur, ← h.data.eoDecode_eq]
  cases s.eoDecode s.cur with
  | value n k => exact ⟨rfl, h.setCur _⟩
  | truncated => rfl
  | boundsExceeded => rfl

theorem desCodeword_alike {s s' : State} (h : SameHeader s s') (k l : Nat) :
    EndsAlike SameHeader (desCodeword s k l) (desCodeword s' k l) := by
  rw [desCodeword, desCodeword, ← h.cur, ← h.data.avail_eq]
  split_ifs with hlong havail
  · rfl
  · rfl
  · rw [← h.data.inSeq_eq havail, ← h.ct]
    exact ⟨⟨h.data.par, h.data.inlen, h.data.bits⟩, rfl, rfl⟩

theorem desEntry_alike {s s' : State} (h : SameHeader s s') : EndsAlike SameHeader (desEntry s) (desEntry s') := by
  rw [desEntry_eq_ite, desEntry_eq_ite, ← h.cur, ← h.data.avail_eq, ← h.data.par]
  by_cases havail : s.avail s.cur Config.symw = false
  · rw [if_pos havail, if_pos havail]
    rfl
  · have hentry (c k : Nat) : (s.setCur c).ctEntry k = (s'.setCur c).ctEntry k := congrArg (Mem.read · k) h.ct
    rw [if_neg havail, if_neg havail, ← h.data.inBits_eq havail, ← hentry]
    split_ifs
    · rfl
    · rfl
    · refine (headerInt_alike (h.setCur _)).bind ?_
      rintro ⟨l, t⟩ ⟨_, t'⟩ ⟨rfl, ht⟩
      exact desCodeword_alike ht _ l

theorem desEntries_alike (n : Nat) {s s' : State} (h : SameHeader s s') :
    EndsAlike SameHeader (desEntries n s) (desEntries n s') := by
  induction n generalizing s s' with
  | zero => exact h
  | succ n ih =>
    rw [desEntries_succ, desEntries_succ]
    exact (desEntry_alike h).bind fun _ _ ht => ih ht

/-- Whatever CT held, the same header gives the same table and ends at the same bit (R195). -/
theorem hdrDes_alike {s s' : State} (h : SameData s s') (p : Nat) :
    EndsAlike SameHeader (hdrDes s p) (hdrDes s' p) := by
  have hstart : SameHeader (s.readTo [] p) (s'.readTo [] p) := ⟨⟨h.par, h.inlen, h.bits⟩, rfl, rfl⟩
  rw [hdrDes_eq_bind, hdrDes_eq_bind]
  refine (headerInt_alike hstart).bind ?_
  rintro ⟨n, t⟩ ⟨_, t'⟩ ⟨rfl, ht⟩
  exact desEntries_alike n ht

theorem hdrDesBody_alike {s s' : State} (h : SameData s s') (hpos : s.pos = s'.pos) :
    EndsAlike (fun t t' => t.nbits = t'.nbits ∧ t.ct = t'.ct) (hdrDesBody s) (hdrDesBody s') := by
  rw [hdrDesBody_eq_bind, hdrDesBody_eq_bind, ← hpos]
  exact (hdrDes_alike h s.pos).bind fun v v' hv => ⟨congrArg (· - s.pos) hv.cur, hv.ct⟩

/-! ## Reading a body (R218) -/

/-- Two blocks have read the same tokens of the same body under the same table: they stand at the same bit of it, with the
same output below OUTLEN. -/
structure SameOutput (s s' : State) : Prop where
  data : SameData s s'
  cur : s.cur = s'.cur
  table : s.ctTable = s'.ctTable
  outlen : s.outlen = s'.outlen
  cells : ∀ a, a < s.outlen → s.outCell a = s'.outCell a

theorem outCell_pushOut (s : State) (v : Sym) (a : Nat) :
    (s.pushOut v).outCell a = if a = s.outlen then v else s.outCell a := by
  rw [State.outCell, State.pushOut_out, Mem.read_write]
  split_ifs <;> rfl

namespace SameOutput

theorem setCur {s s' : State} (h : SameOutput s s') (c : Nat) : SameOutput (s.setCur c) (s'.setCur c) :=
  ⟨⟨h.data.par, h.data.inlen, h.data.bits⟩, rfl, h.table, h.outlen, h.cells⟩

theorem pushOut {s s' : State} (h : SameOutput s s') (v : Sym) : SameOutput (s.pushOut v) (s'.pushOut v) := by
  refine ⟨⟨h.data.par, h.data.inlen, h.data.bits⟩, h.cur, h.table, congrArg (· + 1) h.outlen, fun a ha => ?_⟩
  rw [outCell_pushOut, outCell_pushOut, ← h.outlen]
  split_ifs with hlast
  · rfl
  · exact h.cells a (Nat.lt_of_le_of_ne (Nat.le_of_lt_succ ha) hlast)

/-- A copy that starts below OUTLEN reads cells of the output only: each round's cell was there or was appended before. -/
theorem copyLoop {s s' : State} (h : SameOutput s s') (n : Nat) {a : Nat} (ha : a < s.outlen) :
    SameOutput (copyLoop n a s) (copyLoop n a s') := by
  induction n generalizing s s' a with
  | zero => exact h
  | succ n ih =>
    rw [Machine.copyLoop, Machine.copyLoop, ← h.cells a ha]
    exact ih (h.pushOut _) (Nat.succ_lt_succ ha)

end SameOutput

theorem symAppend_alike {s s' : State} (h : SameOutput s s') (v : Sym) :
    EndsAlike SameOutput (symAppend s v) (symAppend s' v) := by
  rw [symAppend, symAppend, ← h.outlen, ← h.data.par]
  split_ifs
  · rfl
  · exact h.pushOut v

/-- An offset of at least 1 points below OUTLEN (R242). -/
theorem copyBack_alike {s s' : State} (h : SameOutput s s') {o : Nat} (ho : 1 ≤ o) (l : Nat) :
    EndsAlike SameOutput (copyBack s o l) (copyBack s' o l) := by
  rw [copyBack, copyBack, ← h.outlen, ← h.data.par]
  split_ifs with hfar hfull
  · rfl
  · rfl
  · exact h.copyLoop l (by omega)

/-- No code stands for 0 (R145). -/
theorem State.one_le_of_readMatchInt {s : State} {c n k : Nat} (h : s.readMatchInt c = .ok (n, k)) : 1 ≤ n := by
  unfold State.readMatchInt Sys2Proof.readMatchInt at h
  cases hdec : Sys2Proof.eoDecode s.par.eoMaxGroup s.inBit s.inlen c with
  | value m j =>
    rw [hdec] at h
    cases h
    exact (eoCode_of_eoDecode hdec).1
  | truncated => simp [hdec] at h
  | boundsExceeded => simp [hdec] at h

/-- An offset that was read points back by at least 1 (R222). -/
theorem State.one_le_offset_of_decodeToken {s : State} {c o l k : Nat} (h : s.decodeToken c = .ok (.mtch o l, k)) :
    1 ≤ o := by
  rw [State.decodeToken_eq] at h
  split_ifs at h
  · obtain ⟨_, -, hlit⟩ := exists_of_bind_eq_ok h
    cases hlit
  · obtain ⟨r, hread, hr⟩ := exists_of_bind_eq_ok h
    rw [State.readMatch_eq_bind] at hread
    obtain ⟨⟨o', k'⟩, hoffset, hread⟩ := exists_of_bind_eq_ok hread
    obtain ⟨_, -, hread⟩ := exists_of_bind_eq_ok hread
    cases hread
    cases hr
    exact State.one_le_of_readMatchInt hoffset

theorem tokenPass_alike {s s' : State} (h : SameOutput s s') : EndsAlike SameOutput (tokenPass s) (tokenPass s') := by
  rw [tokenPass_eq_bind, tokenPass_eq_bind, ← h.cur, ← h.data.decodeToken_eq h.table]
  refine (endsAlike_self _).bind ?_
  rintro ⟨tok, k⟩ _ ⟨rfl, hread⟩
  have htok : EndsAlike SameOutput (s.applyToken tok) (s'.applyToken tok) := by
    cases tok with
    | lit v => exact symAppend_alike h v
    | mtch o l => exact copyBack_alike h (State.one_le_offset_of_decodeToken hread) l
  exact htok.bind fun t t' ht => ht.setCur _

theorem tokenLoop_alike (n : Nat) {s s' : State} (h : SameOutput s s') :
    EndsAlike SameOutput (tokenLoop n s) (tokenLoop n s') := by
  induction n generalizing s s' with
  | zero => exact h
  | succ n ih =>
    rw [tokenLoop_succ, tokenLoop_succ]
    exact (tokenPass_alike h).bind fun _ _ ht => ih ht

/-- Whatever OUT held and OUTLEN was, the same body gives the same output and ends at the same bit (R218). -/
theorem tokDes_alike {s s' : State} (h : SameData s s') (htable : s.ctTable = s'.ctTable) (p : Nat) :
    EndsAlike SameOutput (tokDes s p) (tokDes s' p) := by
  rw [tokDes_eq_bind, tokDes_eq_bind, ← h.readMatchInt_eq]
  refine (endsAlike_self _).bind ?_
  rintro ⟨n, k⟩ _ ⟨rfl, -⟩
  exact tokenLoop_alike n ⟨⟨h.par, h.inlen, h.bits⟩, rfl, htable, rfl, fun _ ha => absurd ha (Nat.not_lt_zero _)⟩

theorem tokDesBody_alike {s s' : State} (h : SameData s s') (hpos : s.pos = s'.pos) (htable : s.ctTable = s'.ctTable) :
    EndsAlike (fun t t' => t.nbits = t'.nbits ∧ SameOutput t t') (tokDesBody s) (tokDesBody s') := by
  rw [tokDesBody_eq_bind, tokDesBody_eq_bind, ← hpos]
  refine (tokDes_alike h htable s.pos).bind fun u u' hu => ?_
  exact ⟨congrArg (· - s.pos) hu.cur, ⟨hu.data.par, hu.data.inlen, hu.data.bits⟩, hu.cur, hu.table, hu.outlen, hu.cells⟩

/-! ## DECODE (R255) -/

theorem Expanded.ct_eq {s t : State} (h : Expanded s t) : t.ct = s.ct := by
  obtain ⟨m, n, c, rfl, -⟩ := h
  rfl

/-- The header gives the table that the body is read under, and the body leaves it alone (R255). -/
theorem decodeBody_alike {s s' : State} (h : SameData s s') (hpos : s.pos = s'.pos) :
    EndsAlike (fun t t' => t.nbits = t'.nbits ∧ (t.outlen = t'.outlen ∧ ∀ a, a < t.outlen → t.outCell a = t'.outCell a) ∧
      t.ct = t'.ct) (decodeBody s) (decodeBody s') := by
  rw [decodeBody_eq_bind, decodeBody_eq_bind, ← hpos]
  refine (hdrDes_alike h s.pos).bind fun v v' hv => ?_
  rw [← hv.cur]
  refine ((tokDes_alike hv.data (ctTable_congr hv.ct.symm).symm v.cur).and_ends (tokDes_ends v _) (tokDes_ends v' _)).bind ?_
  rintro u u' ⟨hu, ⟨hframe, -⟩, hframe', -⟩
  refine ⟨?_, ⟨hu.outlen, hu.cells⟩, hframe.ct_eq.trans (hv.ct.trans hframe'.ct_eq.symm)⟩
  exact congrArg (fun c => v.cur - s.pos + (c - v.cur)) hu.cur

end Machine
end Sys2Proof
end

section
/-! SUPPORT. A command depends on what the table of R39 marks as read (R302): its checks and its body, from two blocks that
agree on it. -/

namespace Sys2Proof.Machine

/-! ## What a command reads and writes (R39) -/

theorem SameRead.sameData {i : Instr} {s s' : State} (h : SameRead i s s')
    (hi : i ∈ [Instr.eoDec, .hdrDes, .tokDes, .decode]) : SameData s s' ∧ s.pos = s'.pos := by
  obtain ⟨hpar, hin, -⟩ := h
  obtain ⟨hpos, hinlen, hbits⟩ := hin hi
  exact ⟨⟨hpar, hinlen, hbits⟩, hpos⟩

theorem SameRead.sameWriter {i : Instr} {s s' : State} (h : SameRead i s s') (hi : i ∈ [Instr.hdrSer, .tokSer]) :
    SameWriter s s' := by
  obtain ⟨hpar, -, -, holen, -, -, hct⟩ := h
  fin_cases hi <;> exact ⟨hpar, holen (by decide), hct (by decide)⟩

/-- An operation that appends writes OBUF and OLEN, and only ENCODE writes CT beside them (R39). -/
theorem AppendedAlike.sameWritten {i : Instr} (hi : i ∈ [Instr.eoEnc, .hdrSer, .tokSer, .encode]) {s s' t t' : State}
    (h : AppendedAlike s s' t t') (holen : s.olen = s'.olen) (hct : i = .encode → t.ct = t'.ct) :
    SameWritten i s.olen t t' := by
  have hobuf := h.obuf holen
  fin_cases hi <;> simp_all [SameWritten]

theorem encodeBody_sameWritten {s s' : State} (h : SameRead .encode s s') :
    EndsAlike (SameWritten .encode s.olen) (encodeBody s) (encodeBody s') := by
  obtain ⟨hpar, -, -, holen, htok, hfreq, -⟩ := h
  obtain ⟨hntok, htokens⟩ := htok (by decide)
  refine (encodeBody_alike hpar (holen (by decide)) hntok htokens (hfreq (by decide))).mono ?_
  rintro u u' ⟨m, hu⟩
  refine hu.sameWritten (by decide) (holen (by decide)) fun _ => ?_
  obtain ⟨b, rfl, rfl⟩ := hu
  rfl

/-- What the body of a command writes is decided by what the table marks as read (R39, R302). -/
theorem bodyOf_sameWritten {i : Instr} (hreset : i ≠ .reset) (hlit : i ≠ .litTok) (hmatch : i ≠ .matchTok)
    {s s' : State} (h : SameRead i s s') : EndsAlike (SameWritten i s.olen) (bodyOf i s) (bodyOf i s') := by
  obtain ⟨hpar, -, hval, holen, htok, hfreq, hct⟩ := id h
  cases i with
  | eoEnc =>
    have holen := holen (by decide)
    show EndsAlike _ (eoEmit s s.val) (eoEmit s' s'.val)
    rw [← hval rfl]
    exact (eoEmit_alike hpar holen s.val).mono fun t t' ht => ht.sameWritten (by decide) holen nofun
  | eoDec =>
    obtain ⟨hdata, hpos⟩ := h.sameData (by decide)
    refine (eoDecBody_alike hdata hpos).mono fun t t' ht => ?_
    simpa [SameWritten] using ht
  | hufBuild =>
    refine (hufBuild_alike (hfreq (by decide))).mono ?_
    rintro _ _ ⟨m, rfl, rfl⟩
    simp [SameWritten]
  | hdrSer =>
    have hwriter := h.sameWriter (by decide)
    exact (hdrSer_writesAlike s s' hwriter).mono fun t t' ht => ht.sameWritten (by decide) hwriter.olen nofun
  | hdrDes =>
    obtain ⟨hdata, hpos⟩ := h.sameData (by decide)
    refine (hdrDesBody_alike hdata hpos).mono fun t t' ht => ?_
    simpa [SameWritten] using ht
  | tokSer =>
    have hwriter := h.sameWriter (by decide)
    obtain ⟨hntok, htokens⟩ := htok (by decide)
    exact (tokSer_alike hwriter hntok htokens).mono fun t t' ht => ht.sameWritten (by decide) hwriter.olen nofun
  | tokDes =>
    obtain ⟨hdata, hpos⟩ := h.sameData (by decide)
    refine (tokDesBody_alike hdata hpos (hct (by decide))).mono fun t t' ⟨hnbits, hout⟩ => ?_
    simpa [SameWritten] using ⟨hnbits, hout.outlen, hout.cells⟩
  | encode => exact encodeBody_sameWritten h
  | decode =>
    obtain ⟨hdata, hpos⟩ := h.sameData (by decide)
    refine (decodeBody_alike hdata hpos).mono fun t t' ht => ?_
    simpa [SameWritten] using ht
  | reset => exact absurd rfl hreset
  | litTok => exact absurd rfl hlit
  | matchTok => exact absurd rfl hmatch

/-- Settles O55: both blocks pass the same checks, and behind them the bodies end alike. -/
theorem operationsDependOnlyOnWhatTheyRead : Obligations.OperationsDependOnlyOnWhatTheyRead := by
  intro i s s' t t' hreset hlit hmatch hs hs' hread hx hx'
  rw [exec_ready_eq_settle hreset hlit hmatch hs] at hx
  rw [exec_ready_eq_settle hreset hlit hmatch hs'] at hx'
  obtain rfl := Host.Outcome.next.inj hx
  obtain rfl := Host.Outcome.next.inj hx'
  have halike : EndsAlike (SameWritten i s.olen) (checkedBody i s) (checkedBody i s') := by
    rw [checkedBody, checkedBody, ← hread.operandsLegal_eq]
    split_ifs
    · exact bodyOf_sameWritten hreset hlit hmatch hread
    · rfl
  exact halike.settle s s' fun _ _ hu => hu

end Sys2Proof.Machine
end
